-- ==== Sys2Proof/Word.lean ====
section
/-! DEFINITION. The words that travel over the register window and the link: bytes, and
little-endian fields of two, four and eight bytes (chapter Data Formats). -/

namespace Sys2Proof

/-- One byte of the register window or of a host-memory record. -/
abbrev Byte := BitVec 8

/-- A 2-byte field. -/
abbrev Half := BitVec 16

/-- A 4-byte field. -/
abbrev Word := BitVec 32

/-- An 8-byte field. -/
abbrev DWord := BitVec 64

end Sys2Proof
end

