-- ==== Sys2Proof/Syntax.lean ====
section
/-! DEFINITION. The commands of the block: one constructor of `Instr` for each row of
spec/opcode_table.json, with the row's operands at the widths the manual carries them in (R193).
Operands are the bytes as the host sends them; ranges are checked by the rules, not by the types. -/

namespace Sys2Proof

/-- The common request header (R156, R193): the flags byte (bit 0: expected version present), the
request tag and the expected version. -/
structure Header where
  flags : Byte
  tag : Half
  version : Half
  deriving DecidableEq, Repr

/-- The key of a request that names a record: site and line (R17). -/
structure KeyArgs where
  site : Word
  line : Byte
  deriving DecidableEq, Repr

/-- CREATE_LINE: site, line, region, process kind, profile number, lot code (0 for none). -/
structure CreateArgs where
  site : Word
  line : Byte
  region : Byte
  kind : Byte
  profile : Byte
  lot : Word
  deriving DecidableEq, Repr

/-- MOVE_LINE: site, line, new region. -/
structure MoveArgs where
  site : Word
  line : Byte
  region : Byte
  deriving DecidableEq, Repr

/-- SET_LINE_PROFILE: site, line, profile number. -/
structure LineProfileArgs where
  site : Word
  line : Byte
  profile : Byte
  deriving DecidableEq, Repr

/-- SET_AIMS: site, line, 12 aims (signed, in plot-point order). -/
structure AimsArgs where
  site : Word
  line : Byte
  aims : Vector Half 12
  deriving DecidableEq, Repr

/-- SET_LINE_LOT and START_CROSSOVER: site, line, lot code. -/
structure LineLotArgs where
  site : Word
  line : Byte
  lot : Word
  deriving DecidableEq, Repr

/-- The per-quantity group of WRITE_PROFILE: W, A, k, h, crossover tolerance. -/
structure LimitArgs where
  w : Half
  a : Half
  k : Half
  h : Half
  tolerance : Half
  deriving DecidableEq, Repr

/-- WRITE_PROFILE: the whole entry (R28). -/
structure WriteProfileArgs where
  profile : Byte
  kind : Byte
  runLimit : Byte
  baselineCount : Byte
  stripInterval : Byte
  lapseLimit : Byte
  crossoverPairs : Byte
  limits : Vector LimitArgs 4
  deriving DecidableEq, Repr

/-- ADD_LOT: lot code, process kind, 12 offsets (signed). -/
structure AddLotArgs where
  lot : Word
  kind : Byte
  offsets : Vector Half 12
  deriving DecidableEq, Repr

/-- READ_LOT: lot code (0: by entry), entry number. -/
structure ReadLotArgs where
  lot : Word
  entry : Byte
  deriving DecidableEq, Repr

/-- SET_REGION_HOLD: region, hold mode. -/
structure RegionHoldArgs where
  region : Byte
  mode : Byte
  deriving DecidableEq, Repr

/-- SCAN_LINES: start slot, the five filter terms, maximum entries (R138). -/
structure ScanArgs where
  start : Half
  region : Byte
  states : Byte
  minLevel : Byte
  attentionOnly : Byte
  marginalOnly : Byte
  maximum : Byte
  deriving DecidableEq, Repr

/-- A 48-byte reading record (R191). -/
abbrev RawReading := Vector Byte 48

/-- The requests that the Command Port presents to the Record Unit, with their parameters. -/
inductive UnitOp where
  | createLine (a : CreateArgs)
  | readLine (a : KeyArgs)
  | retireLine (a : KeyArgs)
  | moveLine (a : MoveArgs)
  | setLineProfile (a : LineProfileArgs)
  | setAims (a : AimsArgs)
  | setLineLot (a : LineLotArgs)
  | startCrossover (a : LineLotArgs)
  | cancelCrossover (a : KeyArgs)
  | acknowledge (a : KeyArgs)
  | clearDrift (a : KeyArgs)
  | reinstate (a : KeyArgs)
  | submitReading (a : RawReading)
  | writeProfile (a : WriteProfileArgs)
  | readProfile (profile : Byte)
  | freezeProfiles
  | addLot (a : AddLotArgs)
  | readLot (a : ReadLotArgs)
  | withdrawLot (lot : Word)
  | removeLot (lot : Word)
  | setRegionHold (a : RegionHoldArgs)
  | readRegion (region : Byte)
  | closeDay (day : Half)
  | regionPoll
  | scanLines (a : ScanArgs)
  | startSurvey (margin : Byte)
  | stopSurvey
  deriving DecidableEq, Repr

/-- What a taken request asks for: work of the Record Unit, or one of the requests the port answers
itself (R150 steps 3 and 4). -/
inductive PortOp where
  | unit (op : UnitOp)
  | openConfig (key : Half)
  | closeConfig
  | unknown (code : Byte)
  deriving DecidableEq, Repr

/-- A write to one NEXT descriptor field, whole or by halves (R165, R179, R180). Of the 32 bits
written to the reading count bits 15:0 are stored, and of the stop options bits 1:0. -/
inductive NextWrite where
  | source (value : DWord)
  | sourceLow (value : Word)
  | sourceHigh (value : Word)
  | count (value : Word)
  | options (value : Word)
  | result (value : DWord)
  | resultLow (value : Word)
  | resultHigh (value : Word)
  deriving DecidableEq, Repr

/-- What takes a port reset (R188): a write of 1 to bit 0 of its register, a hot reset, or a loss
of link. -/
inductive PortResetCause where
  | registerWrite
  | hotReset
  | linkLoss
  deriving DecidableEq, Repr

/-- The commands of the VB-412: the rows of spec/opcode_table.json, in the table's order. A request
constructor stands for the host placing that request in the request block and writing GO (log 1);
`fetch` names the bus-master read a completion belongs to (log 7). -/
inductive Instr where
  | createLine (h : Header) (a : CreateArgs)
  | readLine (h : Header) (a : KeyArgs)
  | retireLine (h : Header) (a : KeyArgs)
  | moveLine (h : Header) (a : MoveArgs)
  | setLineProfile (h : Header) (a : LineProfileArgs)
  | setAims (h : Header) (a : AimsArgs)
  | setLineLot (h : Header) (a : LineLotArgs)
  | startCrossover (h : Header) (a : LineLotArgs)
  | cancelCrossover (h : Header) (a : KeyArgs)
  | acknowledge (h : Header) (a : KeyArgs)
  | clearDrift (h : Header) (a : KeyArgs)
  | reinstate (h : Header) (a : KeyArgs)
  | submitReading (h : Header) (a : RawReading)
  | writeProfile (h : Header) (a : WriteProfileArgs)
  | readProfile (h : Header) (profile : Byte)
  | freezeProfiles (h : Header)
  | addLot (h : Header) (a : AddLotArgs)
  | readLot (h : Header) (a : ReadLotArgs)
  | withdrawLot (h : Header) (lot : Word)
  | removeLot (h : Header) (lot : Word)
  | setRegionHold (h : Header) (a : RegionHoldArgs)
  | readRegion (h : Header) (region : Byte)
  | closeDay (h : Header) (day : Half)
  | regionPoll (h : Header)
  | scanLines (h : Header) (a : ScanArgs)
  | startSurvey (h : Header) (margin : Byte)
  | stopSurvey (h : Header)
  | openConfig (h : Header) (key : Half)
  | closeConfig (h : Header)
  | unknownCommand (h : Header) (code : Byte)
  | overrunClear (go : Bool)
  | arm
  | abort
  | pause
  | resume
  | armRefusedClear
  | nextFieldWrite (w : NextWrite)
  | interruptStatusClear (value : Word)
  | interruptEnableWrite (value : Word)
  | portReset (cause : PortResetCause)
  | registerWrite (offset : Nat) (bytes : List Byte)
  | coldReset
  | initialisationComplete
  | readCompletion (fetch : Nat) (data : RawReading)
  | fetchError (fetch : Nat)
  | fetchTimeout
  | recordUnitGrant
  | commandComplete
  | batchReadingComplete
  | sweepStep
  | surveyStep
  | coldResetEnd
  deriving DecidableEq, Repr

end Sys2Proof
end

