-- ==== Sys2Proof/Config.lean ====
section
/-! DEFINITION. What an implementation fixes, and the one free value the manual leaves open. -/

namespace Sys2Proof.Config

/-- How many of the items waiting for the link had already been sent on it when the `n`-th reset
discarded the rest (R182, R188: "issued and not yet sent on the link", with no rule for when an
item is sent). A free value: nothing constrains it (log 5). -/
opaque linkSent : Nat → Nat

end Sys2Proof.Config
end

