-- ==== Sys2Proof/Machine/State.lean ====
section
/-! DEFINITION. The state of the VB-412: every register, table, record, queue and indication the
manual gives the part, as plain data, and the state when cold reset has ended. -/

namespace Sys2Proof.Machine

open Sys2Proof

/-! ## Names the manual gives to values -/

/-- Process kind of a line, profile, lot or reading (R2); NONE of a table entry is `none`. -/
inductive ProcessKind where
  | film
  | paper
  | mono
  deriving DecidableEq, Repr

/-- The five surveillance states (R92). -/
inductive SurvState where
  | new
  | baseline
  | active
  | lapsed
  | reinstating
  deriving DecidableEq, Repr

/-- Verdict levels, in ascending order (R79). -/
inductive Level where
  | ok
  | warning
  | action
  deriving DecidableEq, Repr

/-- Hold mode and closing mode of a region (R42). -/
inductive HoldMode where
  | run
  | holdAtDue
  | hold
  deriving DecidableEq, Repr

/-- State of a Lot Table entry (R35): FREE, OPEN, WITHDRAWN. -/
inductive LotState where
  | free
  | opened
  | withdrawn
  deriving DecidableEq, Repr

/-- Side of a crossover reading (R119). -/
inductive Side where
  | old
  | new
  deriving DecidableEq, Repr

/-- Status codes of responses and verdicts (R190). -/
inductive Status where
  | accepted
  | noRecord
  | wrongKind
  | range
  | futureDay
  | tooOld
  | unknownLot
  | lotWithdrawn
  | lapsed
  | lotNotAttached
  | crossoverDay
  | noSnapshot
  | outOfOrder
  | duplicateDay
  | badCheck
  | notReady
  | exists
  | tableFull
  | versionMismatch
  | badState
  | configClosed
  | locked
  | inUse
  | badParameter
  | walkActive
  | crossoverOpen
  | unknownCommand
  | keyRejected
  | noProfile
  deriving DecidableEq, Repr

/-! ## The line record (R2 to R8) -/

/-- The flag set of a plot point (R6, R76 to R78). -/
structure Flags where
  shift : Bool
  excursion : Bool
  trend : Bool
  drift : Bool
  deriving DecidableEq, Repr

/-- The statistics of one plot point (R6). -/
structure PointStats where
  lastDev : Option Int
  cusumHigh : Nat
  cusumLow : Nat
  run : Int
  flags : Flags
  deriving DecidableEq, Repr

/-- A per-point field: 12 entries in plot-point order, BASE, SPEED, CONTRAST, MAXD and within each
red, green, blue. A MONO record uses the green entries 1, 4, 7 and 10 (R190; log 15). -/
abbrev Points (α : Type) := Vector α 12

/-- The held reading of a crossover (R119). -/
structure Held where
  side : Side
  day : Nat
  values : Points Int
  deriving DecidableEq, Repr

/-- The crossover part (R4, R116). -/
structure Crossover where
  incoming : Fin 64
  pairsRequired : Nat
  pairsDone : Nat
  sums : Points Int
  held : Option Held
  deriving DecidableEq, Repr

/-- The baseline part (R5, R82). -/
structure Baseline where
  taken : Nat
  sums : Points Int
  deriving DecidableEq, Repr

/-- The snapshot part (R8, R63). -/
structure Snapshot where
  day : Nat
  lot : Fin 64
  stats : Points PointStats
  level : Level
  deriving DecidableEq, Repr

/-- One live line record. The key is `site` and `lineNo` (R2). -/
structure LineRecord where
  slot : Nat
  site : Nat
  lineNo : Nat
  region : Fin 64
  kind : ProcessKind
  profile : Fin 32
  version : BitVec 16
  creationDay : Nat
  state : SurvState
  closedDay : Nat
  countdown : Nat
  missed : Nat
  lastReading : Option Nat
  readingCount : Nat
  lot : Option (Fin 64)
  crossover : Option Crossover
  aims : Option (Points Int)
  baseline : Option Baseline
  stats : Points PointStats
  level : Level
  ackLevel : Level
  lapseEvent : Bool
  mismatchEvent : Bool
  attention : Bool
  marginal : Bool
  snapshot : Option Snapshot
  deriving DecidableEq, Repr

/-! ## The tables (R26, R35, R42) -/

/-- The per-quantity parameters of a profile (R26). -/
structure Limits where
  w : Nat
  a : Nat
  k : Nat
  h : Nat
  tolerance : Nat
  deriving DecidableEq, Repr

/-- One Profile Table entry; `kind = none` is UNSET (R26). -/
structure Profile where
  kind : Option ProcessKind
  runLimit : Nat
  baselineCount : Nat
  stripInterval : Nat
  lapseLimit : Nat
  crossoverPairs : Nat
  limits : Vector Limits 4
  useCount : Nat
  deriving DecidableEq, Repr

/-- One Lot Table entry (R35). -/
structure Lot where
  state : LotState
  code : Word
  kind : Option ProcessKind
  offsets : Points Int
  currentUsers : Nat
  incomingUsers : Nat
  deriving DecidableEq, Repr

/-- One Region Table entry (R42). -/
structure Region where
  hold : HoldMode
  closing : HoldMode
  liveCount : Nat
  attentionCount : Nat
  deriving DecidableEq, Repr

/-! ## Walkers and arbiter (R14, R111, R142) -/

/-- The Day-Close Sweep (R111). -/
structure Sweep where
  running : Bool
  pointer : Nat
  deriving DecidableEq, Repr

/-- The survey states (R142). -/
inductive SurveyState where
  | noResult
  | running
  | done
  | stopped
  deriving DecidableEq, Repr

/-- The Margin Survey (R142). -/
structure Survey where
  state : SurveyState
  margin : Nat
  pointer : Nat
  visited : Nat
  marked : Nat
  firstMarked : Nat
  deriving DecidableEq, Repr

/-- The foreground clients of the Record Unit (R14). -/
inductive Foreground where
  | commandPort
  | batchEngine
  deriving DecidableEq, Repr

/-- The background clients of the Record Unit (R14). -/
inductive Background where
  | sweep
  | survey
  deriving DecidableEq, Repr

/-- What the arbiter keeps (R14). -/
structure Arbiter where
  sweepCount : Nat
  surveyCount : Nat
  lastForeground : Foreground
  lastBackground : Background
  deriving DecidableEq, Repr

/-- A request bound for the Record Unit, as the Command Port copied it. -/
structure UnitRequest where
  header : Header
  op : UnitOp
  deriving DecidableEq, Repr

/-- The granted request that the Record Unit is carrying out (R16). A port reset discards the
response of a command request (R155) and the verdict of a batch reading (R178). -/
inductive Grant where
  | command (request : UnitRequest) (discarded : Bool)
  | reading (data : RawReading) (discarded : Bool)
  | sweepStep
  | surveyStep
  deriving DecidableEq, Repr

/-- The Record Unit: records, key index, free-slot ring, tables, business day, walkers, arbiter and
the request being carried out. -/
structure RecordUnit where
  /-- The live records in ascending slot order; every other slot is free (R1). -/
  records : List LineRecord
  /-- The chains of the key index, newest slot first (R10). -/
  index : Vector (List Nat) 1024
  ring : Vector Nat 4096
  ringHead : Nat
  ringTail : Nat
  profiles : Vector Profile 32
  lots : Vector Lot 64
  regions : Vector Region 64
  businessDay : Nat
  freeze : Bool
  sweep : Sweep
  survey : Survey
  arbiter : Arbiter
  inProgress : Option Grant
  deriving DecidableEq, Repr

/-! ## Command Port and gate (R149, R158) -/

/-- The port state: IDLE, or BUSY with a request that waits for its grant or has been granted. -/
inductive PortPhase where
  | idle
  | waiting (request : UnitRequest)
  | granted
  deriving DecidableEq, Repr

/-- The Command Port (R149). -/
structure CommandPort where
  phase : PortPhase
  done : Bool
  overrun : Bool
  requestBlock : Vector Byte 64
  responseBlock : Vector Byte 256
  deriving DecidableEq, Repr

/-- The configuration gate (R158). -/
inductive Gate where
  | closed
  | key1Seen
  | opened
  deriving DecidableEq, Repr

/-! ## Batch Engine (R164, R165) -/

/-- The two stop options of a descriptor (R165). -/
structure StopOptions where
  onAction : Bool
  onRefusal : Bool
  deriving DecidableEq, Repr

/-- The NEXT fields (R164, R165). -/
structure Descriptor where
  source : DWord
  count : Half
  result : DWord
  options : StopOptions
  deriving DecidableEq, Repr

/-- FRONT with its working counters (R164). -/
structure Front where
  count : Half
  options : StopOptions
  source : DWord
  result : DWord
  processed : Nat
  remaining : Nat
  deriving DecidableEq, Repr

/-- End causes of a batch (R173, R179). -/
inductive EndCause where
  | noEnd
  | complete
  | stopAction
  | stopRefusal
  | aborted
  | fetchTimeout
  | fetchError
  deriving DecidableEq, Repr

/-- The end report (R174). -/
structure EndReport where
  cause : EndCause
  processed : Nat
  remaining : Nat
  nextSource : DWord
  nextResult : DWord
  nextCancelled : Bool
  deriving DecidableEq, Repr

/-- The engine states (R164). -/
inductive EnginePhase where
  | idle
  | running
  | paused
  deriving DecidableEq, Repr

/-- One memory read request on the link (R186). -/
structure LinkRead where
  address : DWord
  length : Nat
  deriving DecidableEq, Repr

/-- The reading in flight (section 9.3): its fetch outstanding, with the read requests it put on the
link (none when bus mastering was disabled at its issue, R186); submitted; or granted. -/
inductive Flight where
  | fetch (serial : Nat) (reads : List LinkRead)
  | submitted (data : RawReading)
  | granted
  deriving DecidableEq, Repr

/-- The Batch Engine (R164). -/
structure BatchEngine where
  phase : EnginePhase
  front : Option Front
  next : Descriptor
  armed : Bool
  armRefused : Bool
  pauseRequested : Bool
  abortPending : Bool
  report : EndReport
  flight : Option Flight
  deriving DecidableEq, Repr

/-! ## Bus Link (R182 to R188) -/

/-- The interrupt sources, in the order of their bits in the status register (R179). -/
inductive Source where
  | ready
  | commandDone
  | batchEnd
  | nextTaken
  | attention
  | sweepDone
  | surveyDone
  deriving DecidableEq, Repr

/-- What the Bus Link sends: a posted write (a whole verdict write or one part of a split one,
R187) or an interrupt message (R185). -/
inductive LinkItem where
  | write (address : DWord) (bytes : List Byte)
  | message (address : DWord) (data : Half)
  deriving DecidableEq, Repr

/-- The Bus Link's latches and enables, the link settings it acts under, and its outward traffic:
`outbound` issued and not yet sent, `sent` what has left the part (observation only, log 4). -/
structure BusLink where
  status : BitVec 7
  enable : BitVec 7
  busMaster : Bool
  msiEnabled : Bool
  msiAddress : DWord
  msiData : Half
  outbound : List LinkItem
  sent : List LinkItem
  deriving DecidableEq, Repr

/-- The device readiness state (R181). -/
inductive Readiness where
  | initialising
  | ready
  deriving DecidableEq, Repr

/-! ## The whole part -/

/-- The state of the VB-412. `fetchSerial` numbers the fetches (log 7), `linkTick` is the index of
the next free value (log 5), `pending` the commands waiting, first in first out. -/
structure State where
  inColdReset : Bool
  readiness : Readiness
  unit : RecordUnit
  port : CommandPort
  gate : Gate
  engine : BatchEngine
  bus : BusLink
  fetchSerial : Nat
  linkTick : Nat
  pending : List Instr
  deriving DecidableEq, Repr

/-- The part raises no fault: every command is answered or ignored as its rule states, so no
constructor is needed and no step can stop with one. -/
inductive Fault where
  deriving DecidableEq, Repr

/-- Why a command has no meaning in the model. -/
inductive Refusal where
  /-- Raised by `exec` for a command whose meaning has not been written; a safe stop. No arm of this
  model raises it. -/
  | notModelled (mnemonic : String)
  deriving DecidableEq, Repr

/-! ## The state when cold reset has ended (R182) -/

/-- No flag set. -/
def Flags.none : Flags := ⟨false, false, false, false⟩

/-- The statistics of a plot point at creation and after a statistics reset (R6, R85). -/
def PointStats.start : PointStats := ⟨Option.none, 0, 0, 0, Flags.none⟩

/-- An UNSET Profile Table entry (R26). -/
def Profile.unset : Profile :=
  { kind := none, runLimit := 0, baselineCount := 0, stripInterval := 0, lapseLimit := 0,
    crossoverPairs := 0, limits := Vector.replicate 4 ⟨0, 0, 0, 0, 0⟩, useCount := 0 }

/-- A FREE Lot Table entry (R35). -/
def Lot.vacant : Lot :=
  { state := .free, code := 0, kind := none, offsets := Vector.replicate 12 0, currentUsers := 0,
    incomingUsers := 0 }

/-- A Region Table entry after cold reset (R42). -/
def Region.reset : Region := ⟨.run, .run, 0, 0⟩

/-- The Record Unit after cold reset, before initialisation fills the ring (R1, R10, R12, R14, R26,
R34, R35, R42, R95, R111, R142). The contents of ring positions are a choice (log 16). -/
def RecordUnit.reset : RecordUnit :=
  { records := []
    index := Vector.replicate 1024 []
    ring := Vector.replicate 4096 0
    ringHead := 0
    ringTail := 0
    profiles := Vector.replicate 32 Profile.unset
    lots := Vector.replicate 64 Lot.vacant
    regions := Vector.replicate 64 Region.reset
    businessDay := 0
    freeze := false
    sweep := ⟨false, 0⟩
    survey := ⟨.noResult, 0, 0, 0, 0, 0⟩
    arbiter := ⟨0, 0, .batchEngine, .survey⟩
    inProgress := none }

/-- The Command Port after cold reset (R149). -/
def CommandPort.reset : CommandPort :=
  { phase := .idle, done := false, overrun := false, requestBlock := Vector.replicate 64 0,
    responseBlock := Vector.replicate 256 0 }

/-- NEXT fields all 0 (R164). -/
def Descriptor.zero : Descriptor := ⟨0, 0, 0, ⟨false, false⟩⟩

/-- The end report with cause NO_END (R164). -/
def EndReport.none : EndReport := ⟨.noEnd, 0, 0, 0, 0, false⟩

/-- The Batch Engine after cold reset (R164). -/
def BatchEngine.reset : BatchEngine :=
  { phase := .idle, front := none, next := Descriptor.zero, armed := false, armRefused := false,
    pauseRequested := false, abortPending := false, report := EndReport.none, flight := none }

/-- The Bus Link after cold reset: statuses and enables 0 (R182). The link settings are a choice
(log 6). -/
def BusLink.reset : BusLink :=
  { status := 0, enable := 0, busMaster := true, msiEnabled := true, msiAddress := 0, msiData := 0,
    outbound := [], sent := [] }

/-- The machine when cold reset has ended: every block at its after-cold-reset values, INITIALISING,
initialisation started (R182; log 8). -/
def State.reset : State :=
  { inColdReset := false
    readiness := .initialising
    unit := RecordUnit.reset
    port := CommandPort.reset
    gate := .closed
    engine := BatchEngine.reset
    bus := BusLink.reset
    fetchSerial := 0
    linkTick := 0
    pending := [] }

end Sys2Proof.Machine
end

