-- ==== Sys2Proof/Machine/Operands.lean ====
section
/-! DEFINITION. Operand forms and byte layouts (chapter Data Formats, R179, R190 to R194): byte
order, field placement, the numeric codes, the request block as bytes and as a request, the reading
record and its check code, the verdict record, the response block and the record image. -/

namespace Sys2Proof.Machine

open Sys2Proof

/-! ## Bytes, little-endian -/

/-- The `width` low bytes of `value`, least significant first. -/
def bytesLE : Nat → Nat → List Byte
  | 0, _ => []
  | width + 1, value => BitVec.ofNat 8 value :: bytesLE width (value / 256)

/-- The number a list of bytes holds, least significant first. -/
def leVal : List Byte → Nat
  | [] => 0
  | b :: bs => b.toNat + 256 * leVal bs

/-- The number in `width` bytes at an offset; bytes past the end read 0. -/
def leAt (l : List Byte) (offset width : Nat) : Nat := leVal ((l.drop offset).take width)

/-- The byte at an offset. -/
def u8At (l : List Byte) (offset : Nat) : Byte := BitVec.ofNat 8 (leAt l offset 1)

/-- The 2-byte field at an offset. -/
def u16At (l : List Byte) (offset : Nat) : Half := BitVec.ofNat 16 (leAt l offset 2)

/-- The 4-byte field at an offset. -/
def u32At (l : List Byte) (offset : Nat) : Word := BitVec.ofNat 32 (leAt l offset 4)

/-- Store bytes one after another from an offset; a byte past the end is dropped. -/
def storeBytes {n : Nat} (v : Vector Byte n) (offset : Nat) : List Byte → Vector Byte n
  | [] => v
  | b :: bs => storeBytes (v.setIfInBounds offset b) (offset + 1) bs

/-- A block of `n` bytes that begins with the bytes given and holds 0 in every other place. -/
def blockOf (n : Nat) (bytes : List Byte) : Vector Byte n :=
  storeBytes (Vector.replicate n 0) 0 bytes

/-! ## Field placement (R193) -/

/-- A field of a layout: its width in bytes and its value as an unsigned number. -/
structure Field where
  width : Nat
  value : Nat
  deriving DecidableEq, Repr

def u8 (value : Nat) : Field := ⟨1, value⟩
def u16 (value : Nat) : Field := ⟨2, value⟩
def u32 (value : Nat) : Field := ⟨4, value⟩
def u64 (value : Nat) : Field := ⟨8, value⟩

/-- A signed 1-byte field, two's complement. -/
def s8 (value : Int) : Field := u8 (BitVec.ofInt 8 value).toNat
/-- A signed 2-byte field, two's complement. -/
def s16 (value : Int) : Field := u16 (BitVec.ofInt 16 value).toNat
/-- A signed 4-byte field, two's complement. -/
def s32 (value : Int) : Field := u32 (BitVec.ofInt 32 value).toNat
/-- A yes-or-no field (R190). -/
def flag (value : Bool) : Field := u8 value.toNat

/-- Place fields from an offset: each at the lowest offset at or after the end of the field before
it that is a multiple of the field's own width, with 0 in the places between (R193). -/
def placeFields : Nat → List Field → List Byte
  | _, [] => []
  | offset, f :: fs =>
    let pad := (f.width - offset % f.width) % f.width
    List.replicate pad 0 ++ bytesLE f.width f.value ++ placeFields (offset + pad + f.width) fs

/-! ## Twelve plot points and four quantities -/

/-- A per-point field from its entries. -/
def build12 {α : Type} (f : Fin 12 → α) : Vector α 12 :=
  #v[f 0, f 1, f 2, f 3, f 4, f 5, f 6, f 7, f 8, f 9, f 10, f 11]

/-- A per-quantity field from its entries. -/
def build4 {α : Type} (f : Fin 4 → α) : Vector α 4 := #v[f 0, f 1, f 2, f 3]

/-- The plot points in plot-point order. -/
def points : List (Fin 12) := [0, 1, 2, 3, 4, 5, 6, 7, 8, 9, 10, 11]

/-- The quantity of a plot point: 0 BASE, 1 SPEED, 2 CONTRAST, 3 MAXD (R190). -/
def quantityOf (i : Fin 12) : Fin 4 := ⟨i.val / 3, by omega⟩

/-- The channel position of a plot point: 0 red, 1 green, 2 blue. -/
def channelOf (i : Fin 12) : Fin 3 := ⟨i.val % 3, by omega⟩

/-- Whether a position is a plot point of a kind: all 12 for FILM and PAPER, the green positions
for MONO (R2, R190). -/
def isPoint (kind : ProcessKind) (i : Fin 12) : Bool :=
  match kind with
  | .film => true
  | .paper => true
  | .mono => channelOf i == 1

/-! ## Codes (R190) -/

def ProcessKind.code : ProcessKind → Nat
  | .film => 1
  | .paper => 2
  | .mono => 3

/-- The code of a process kind that may be NONE. -/
def kindCode : Option ProcessKind → Nat
  | none => 0
  | some k => k.code

/-- The process kind of a code; 0 and codes above 3 name none. -/
def kindOfCode (code : Nat) : Option ProcessKind :=
  if code = 1 then some .film
  else if code = 2 then some .paper
  else if code = 3 then some .mono
  else none

def SurvState.code : SurvState → Nat
  | .new => 0
  | .baseline => 1
  | .active => 2
  | .lapsed => 3
  | .reinstating => 4

def Level.code : Level → Nat
  | .ok => 0
  | .warning => 1
  | .action => 2

def HoldMode.code : HoldMode → Nat
  | .run => 0
  | .holdAtDue => 1
  | .hold => 2

/-- The hold mode of a code, if the code is one. -/
def holdOfCode (code : Nat) : Option HoldMode :=
  if code = 0 then some .run
  else if code = 1 then some .holdAtDue
  else if code = 2 then some .hold
  else none

def LotState.code : LotState → Nat
  | .free => 0
  | .opened => 1
  | .withdrawn => 2

def Side.code : Side → Nat
  | .old => 1
  | .new => 2

/-- The code of a survey state: R179's for the survey register, also written in response bytes, for
which R190 lists none (log 30). -/
def SurveyState.code : SurveyState → Nat
  | .noResult => 0
  | .running => 1
  | .done => 2
  | .stopped => 3

/-- The code of a gate state: R179's for the device register, also written in response bytes, for which
R190 lists none (log 30). -/
def Gate.code : Gate → Nat
  | .closed => 0
  | .key1Seen => 1
  | .opened => 2

def EnginePhase.code : EnginePhase → Nat
  | .idle => 0
  | .running => 1
  | .paused => 2

def EndCause.code : EndCause → Nat
  | .noEnd => 0
  | .complete => 1
  | .stopAction => 2
  | .stopRefusal => 3
  | .aborted => 4
  | .fetchTimeout => 5
  | .fetchError => 6

def Status.code : Status → Nat
  | .accepted => 0x00
  | .noRecord => 0x01
  | .wrongKind => 0x02
  | .range => 0x03
  | .futureDay => 0x04
  | .tooOld => 0x05
  | .unknownLot => 0x06
  | .lotWithdrawn => 0x07
  | .lapsed => 0x08
  | .lotNotAttached => 0x09
  | .crossoverDay => 0x0A
  | .noSnapshot => 0x0B
  | .outOfOrder => 0x0C
  | .duplicateDay => 0x0D
  | .badCheck => 0x0E
  | .notReady => 0x0F
  | .exists => 0x10
  | .tableFull => 0x11
  | .versionMismatch => 0x12
  | .badState => 0x13
  | .configClosed => 0x14
  | .locked => 0x15
  | .inUse => 0x16
  | .badParameter => 0x17
  | .walkActive => 0x18
  | .crossoverOpen => 0x19
  | .unknownCommand => 0x1A
  | .keyRejected => 0x1B
  | .noProfile => 0x1C

/-- The outcome of an accepted reading (R54). -/
inductive ReadingOutcome where
  | none
  | baselineTaken
  | baselineDone
  | held
  | paired
  | switched
  | mismatch
  | replaced
  | reinstated
  deriving DecidableEq, Repr

def ReadingOutcome.code : ReadingOutcome → Nat
  | .none => 0
  | .baselineTaken => 1
  | .baselineDone => 2
  | .held => 3
  | .paired => 4
  | .switched => 5
  | .mismatch => 6
  | .replaced => 7
  | .reinstated => 8

/-- A flag set as a bit mask: bit 0 SHIFT, bit 1 EXCURSION, bit 2 TREND, bit 3 DRIFT. -/
def Flags.mask (f : Flags) : Nat :=
  f.shift.toNat + 2 * f.excursion.toNat + 4 * f.trend.toNat + 8 * f.drift.toNat

/-- The key of OPEN_CONFIG that begins the sequence (R158). -/
def key1 : Half := 0x4D31

/-- The key of OPEN_CONFIG that completes it (R158). -/
def key2 : Half := 0x2E97

/-- The highest slot number (R1). -/
def lastSlot : Nat := 4095

/-! ## Requests as bytes (R193) -/

def unitOpCode : UnitOp → Byte
  | .createLine _ => 0x01
  | .readLine _ => 0x02
  | .retireLine _ => 0x03
  | .moveLine _ => 0x04
  | .setLineProfile _ => 0x05
  | .setAims _ => 0x06
  | .setLineLot _ => 0x07
  | .startCrossover _ => 0x08
  | .cancelCrossover _ => 0x09
  | .acknowledge _ => 0x0A
  | .clearDrift _ => 0x0B
  | .reinstate _ => 0x0C
  | .submitReading _ => 0x0D
  | .writeProfile _ => 0x20
  | .readProfile _ => 0x21
  | .freezeProfiles => 0x22
  | .addLot _ => 0x23
  | .readLot _ => 0x24
  | .withdrawLot _ => 0x25
  | .removeLot _ => 0x26
  | .setRegionHold _ => 0x27
  | .readRegion _ => 0x28
  | .closeDay _ => 0x40
  | .regionPoll => 0x41
  | .scanLines _ => 0x42
  | .startSurvey _ => 0x43
  | .stopSurvey => 0x44

def portOpCode : PortOp → Byte
  | .unit op => unitOpCode op
  | .openConfig _ => 0x60
  | .closeConfig => 0x61
  | .unknown code => code

/-- Every code of the catalogue (R193). -/
def knownCodes : List Byte :=
  [0x01, 0x02, 0x03, 0x04, 0x05, 0x06, 0x07, 0x08, 0x09, 0x0A, 0x0B, 0x0C, 0x0D,
   0x20, 0x21, 0x22, 0x23, 0x24, 0x25, 0x26, 0x27, 0x28, 0x40, 0x41, 0x42, 0x43, 0x44, 0x60, 0x61]

/-- Fields for a list of signed or unsigned 2-byte values as carried. -/
def halfFields (v : Vector Half 12) : List Field := points.map fun i => u16 v[i].toNat

/-- The per-quantity group of WRITE_PROFILE: W, A, k, h, crossover tolerance. -/
def limitArgFields (l : LimitArgs) : List Field :=
  [u16 l.w.toNat, u16 l.a.toNat, u16 l.k.toNat, u16 l.h.toNat, u16 l.tolerance.toNat]

/-- The parameters of a request, in the order of the catalogue (R193, section 8.7). READ_LINE's own
parameters are placed by the same rule (log 14); SCAN_LINES and SUBMIT_READING have layouts of their
own, which this order also gives. -/
def unitOpFields : UnitOp → List Field
  | .createLine a =>
    [u32 a.site.toNat, u8 a.line.toNat, u8 a.region.toNat, u8 a.kind.toNat, u8 a.profile.toNat,
     u32 a.lot.toNat]
  | .readLine a => [u32 a.site.toNat, u8 a.line.toNat]
  | .retireLine a => [u32 a.site.toNat, u8 a.line.toNat]
  | .moveLine a => [u32 a.site.toNat, u8 a.line.toNat, u8 a.region.toNat]
  | .setLineProfile a => [u32 a.site.toNat, u8 a.line.toNat, u8 a.profile.toNat]
  | .setAims a => [u32 a.site.toNat, u8 a.line.toNat] ++ halfFields a.aims
  | .setLineLot a => [u32 a.site.toNat, u8 a.line.toNat, u32 a.lot.toNat]
  | .startCrossover a => [u32 a.site.toNat, u8 a.line.toNat, u32 a.lot.toNat]
  | .cancelCrossover a => [u32 a.site.toNat, u8 a.line.toNat]
  | .acknowledge a => [u32 a.site.toNat, u8 a.line.toNat]
  | .clearDrift a => [u32 a.site.toNat, u8 a.line.toNat]
  | .reinstate a => [u32 a.site.toNat, u8 a.line.toNat]
  | .submitReading a => a.toList.map fun b => u8 b.toNat
  | .writeProfile a =>
    [u8 a.profile.toNat, u8 a.kind.toNat, u8 a.runLimit.toNat, u8 a.baselineCount.toNat,
     u8 a.stripInterval.toNat, u8 a.lapseLimit.toNat, u8 a.crossoverPairs.toNat] ++
      limitArgFields a.limits[0] ++ limitArgFields a.limits[1] ++ limitArgFields a.limits[2] ++
      limitArgFields a.limits[3]
  | .readProfile profile => [u8 profile.toNat]
  | .freezeProfiles => []
  | .addLot a => [u32 a.lot.toNat, u8 a.kind.toNat] ++ halfFields a.offsets
  | .readLot a => [u32 a.lot.toNat, u8 a.entry.toNat]
  | .withdrawLot lot => [u32 lot.toNat]
  | .removeLot lot => [u32 lot.toNat]
  | .setRegionHold a => [u8 a.region.toNat, u8 a.mode.toNat]
  | .readRegion region => [u8 region.toNat]
  | .closeDay day => [u16 day.toNat]
  | .regionPoll => []
  | .scanLines a =>
    [u16 a.start.toNat, u8 a.region.toNat, u8 a.states.toNat, u8 a.minLevel.toNat,
     u8 a.attentionOnly.toNat, u8 a.marginalOnly.toNat, u8 a.maximum.toNat]
  | .startSurvey margin => [u8 margin.toNat]
  | .stopSurvey => []

def portOpFields : PortOp → List Field
  | .unit op => unitOpFields op
  | .openConfig key => [u16 key.toNat]
  | .closeConfig => []
  | .unknown _ => []

/-- The bytes of a request from offset 0 of the request block: the 8-byte header, its reserved
bytes 0, and the parameters from offset 8 (R193). -/
def encodeRequest (h : Header) (op : PortOp) : List Byte :=
  placeFields 0
    ([u8 (portOpCode op).toNat, u8 h.flags.toNat, u16 h.tag.toNat, u16 h.version.toNat, u16 0] ++
      portOpFields op)

/-- Twelve 2-byte values from an offset. -/
def halvesAt (l : List Byte) (offset : Nat) : Vector Half 12 :=
  build12 fun i => u16At l (offset + 2 * i.val)

/-- One per-quantity group of WRITE_PROFILE at an offset. -/
def limitArgsAt (l : List Byte) (offset : Nat) : LimitArgs :=
  ⟨u16At l offset, u16At l (offset + 2), u16At l (offset + 4), u16At l (offset + 6),
   u16At l (offset + 8)⟩

/-- The 48 bytes of a reading record from a list; missing bytes read 0. -/
def rawReadingOf (l : List Byte) : RawReading := blockOf 48 (l.take 48)

def keyArgsAt (l : List Byte) : KeyArgs := ⟨u32At l 8, u8At l 12⟩

def lineLotArgsAt (l : List Byte) : LineLotArgs := ⟨u32At l 8, u8At l 12, u32At l 16⟩

/-- The request a block of bytes holds (R193): its code says which request it is, and its parameters
stand at the offsets the catalogue's order gives. -/
def parseOp (l : List Byte) : PortOp :=
  let code := u8At l 0
  if code = 0x01 then
    .unit (.createLine ⟨u32At l 8, u8At l 12, u8At l 13, u8At l 14, u8At l 15, u32At l 16⟩)
  else if code = 0x02 then .unit (.readLine (keyArgsAt l))
  else if code = 0x03 then .unit (.retireLine (keyArgsAt l))
  else if code = 0x04 then .unit (.moveLine ⟨u32At l 8, u8At l 12, u8At l 13⟩)
  else if code = 0x05 then .unit (.setLineProfile ⟨u32At l 8, u8At l 12, u8At l 13⟩)
  else if code = 0x06 then .unit (.setAims ⟨u32At l 8, u8At l 12, halvesAt l 14⟩)
  else if code = 0x07 then .unit (.setLineLot (lineLotArgsAt l))
  else if code = 0x08 then .unit (.startCrossover (lineLotArgsAt l))
  else if code = 0x09 then .unit (.cancelCrossover (keyArgsAt l))
  else if code = 0x0A then .unit (.acknowledge (keyArgsAt l))
  else if code = 0x0B then .unit (.clearDrift (keyArgsAt l))
  else if code = 0x0C then .unit (.reinstate (keyArgsAt l))
  else if code = 0x0D then .unit (.submitReading (rawReadingOf (l.drop 8)))
  else if code = 0x20 then
    .unit (.writeProfile ⟨u8At l 8, u8At l 9, u8At l 10, u8At l 11, u8At l 12, u8At l 13, u8At l 14,
      #v[limitArgsAt l 16, limitArgsAt l 26, limitArgsAt l 36, limitArgsAt l 46]⟩)
  else if code = 0x21 then .unit (.readProfile (u8At l 8))
  else if code = 0x22 then .unit .freezeProfiles
  else if code = 0x23 then .unit (.addLot ⟨u32At l 8, u8At l 12, halvesAt l 14⟩)
  else if code = 0x24 then .unit (.readLot ⟨u32At l 8, u8At l 12⟩)
  else if code = 0x25 then .unit (.withdrawLot (u32At l 8))
  else if code = 0x26 then .unit (.removeLot (u32At l 8))
  else if code = 0x27 then .unit (.setRegionHold ⟨u8At l 8, u8At l 9⟩)
  else if code = 0x28 then .unit (.readRegion (u8At l 8))
  else if code = 0x40 then .unit (.closeDay (u16At l 8))
  else if code = 0x41 then .unit .regionPoll
  else if code = 0x42 then
    .unit (.scanLines ⟨u16At l 8, u8At l 10, u8At l 11, u8At l 12, u8At l 13, u8At l 14, u8At l 15⟩)
  else if code = 0x43 then .unit (.startSurvey (u8At l 8))
  else if code = 0x44 then .unit .stopSurvey
  else if code = 0x60 then .openConfig (u16At l 8)
  else if code = 0x61 then .closeConfig
  else .unknown code

/-- The header a block of bytes holds (R193). -/
def parseHeader (l : List Byte) : Header := ⟨u8At l 1, u16At l 2, u16At l 4⟩

/-- Whether a request carries an expected version (R193: bit 0 of byte 1). -/
def versionPresent (h : Header) : Bool := h.flags.getLsbD 0

/-- A yes-or-no byte: bit 0 alone is read (R190). -/
def yes (b : Byte) : Bool := b.getLsbD 0

/-! ## The reading record (R46, R191) -/

/-- The fields of a reading, as received. -/
structure Reading where
  hostTag : Word
  site : Word
  line : Byte
  kind : Byte
  replace : Bool
  day : Nat
  lotCode : Word
  densities : Vector Half 12
  deriving DecidableEq, Repr

/-- The reading a 48-byte record carries (R191). -/
def parseReading (raw : RawReading) : Reading :=
  let l := raw.toList
  { hostTag := u32At l 0
    site := u32At l 4
    line := u8At l 8
    kind := u8At l 9
    replace := (u8At l 10).getLsbD 0
    day := (u16At l 12).toNat
    lotCode := u32At l 16
    densities := halvesAt l 20 }

/-- One data bit of the check code (R191): the bit is combined with the register's most significant
bit, the register shifts left, and 0x1021 is combined in when that combined bit is 1. -/
def crcBit (reg : BitVec 16) (bit : Bool) : BitVec 16 :=
  let shifted := reg <<< 1
  if (bit ^^ reg.getLsbD 15) then shifted ^^^ 0x1021 else shifted

/-- One byte of the check code, most significant bit first. -/
def crcByte (reg : BitVec 16) (b : Byte) : BitVec 16 :=
  [7, 6, 5, 4, 3, 2, 1, 0].foldl (fun r i => crcBit r (b.getLsbD i)) reg

/-- The check code of a list of bytes: the register starts at 0xFFFF and is not inverted. -/
def checkCode (l : List Byte) : BitVec 16 := l.foldl crcByte 0xFFFF

/-- Whether the check code over bytes 0 to 45 equals the one stored at 46 and 47 (R47, R191). -/
def checkPasses (raw : RawReading) : Bool :=
  checkCode (raw.toList.take 46) == u16At raw.toList 46

/-! ## The verdict (R65, R192) -/

/-- The worst point of a verdict: quantity code, channel code and last deviation. -/
structure WorstPoint where
  quantity : Nat
  channel : Nat
  deviation : Int
  deriving DecidableEq, Repr

/-- A verdict (R65). -/
structure Verdict where
  hostTag : Word
  site : Word
  line : Byte
  status : Status
  outcome : ReadingOutcome
  state : SurvState
  slot : Nat
  version : BitVec 16
  level : Level
  ackLevel : Level
  attention : Bool
  newAction : Bool
  newKinds : Flags
  worst : Option WorstPoint
  pairsDone : Nat
  pairsRequired : Nat
  countdown : Nat
  deriving DecidableEq, Repr

/-- The verdict of a reading that concerns no record: BAD_CHECK and NO_RECORD (R47, R48, R192). -/
def Verdict.noRecord (rd : Reading) (status : Status) : Verdict :=
  { hostTag := rd.hostTag, site := rd.site, line := rd.line, status := status, outcome := .none,
    state := .new, slot := 0, version := 0, level := .ok, ackLevel := .ok, attention := false,
    newAction := false, newKinds := Flags.none, worst := none, pairsDone := 0, pairsRequired := 0,
    countdown := 0 }

/-- The fields of the 32-byte verdict record, in offset order (R192). -/
def Verdict.fields (v : Verdict) : List Field :=
  let w := v.worst.getD ⟨0, 0, 0⟩
  [u32 v.hostTag.toNat, u32 v.site.toNat, u8 v.line.toNat, u8 v.status.code, u8 v.outcome.code,
   u8 v.state.code, u16 v.slot, u16 v.version.toNat, u8 v.level.code, u8 v.ackLevel.code,
   u8 (v.attention.toNat + 2 * v.newAction.toNat + 4 * v.worst.isSome.toNat), u8 v.newKinds.mask,
   u8 w.quantity, u8 w.channel, s16 w.deviation, u8 v.pairsDone, u8 v.pairsRequired,
   u8 v.countdown, u8 0, u8 0, u8 0, u8 0, u8 0]

/-- The 32 bytes of a verdict record (R192). -/
def Verdict.bytes (v : Verdict) : List Byte := placeFields 0 v.fields

/-! ## Responses (R156, R193) -/

/-- A response: the common fields and the content of its request. -/
structure Reply where
  status : Status
  slot : Nat
  version : BitVec 16
  content : List Field
  deriving DecidableEq, Repr

/-- A response that names no record. -/
def Reply.plain (status : Status) (content : List Field) : Reply := ⟨status, 0, 0, content⟩

/-- The whole response block: header, content from offset 8, and 0 in every position the response
does not use (R152, R193). -/
def responseOf (code : Byte) (tag : Half) (r : Reply) : Vector Byte 256 :=
  blockOf 256 (placeFields 0
    ([u8 code.toNat, u8 r.status.code, u16 tag.toNat, u16 r.slot, u16 r.version.toNat] ++ r.content))

/-! ## The record image (R194) -/

/-- The 8 bytes of one point's statistics. -/
def PointStats.fields (p : PointStats) : List Field :=
  [s16 (p.lastDev.getD 0), u16 p.cusumHigh, u16 p.cusumLow, s8 p.run,
   u8 (p.flags.mask + 128 * p.lastDev.isSome.toNat)]

/-- The 96 bytes of twelve points. -/
def statsFields (s : Points PointStats) : List Field := (points.map fun i => s[i].fields).flatten

/-- The part area of the image, from offset 156 (R194). -/
def partFields (lots : Vector Lot 64) (r : LineRecord) : List Field :=
  match r.baseline, r.crossover, r.snapshot with
  | some b, _, _ => [u8 b.taken] ++ points.map fun i => s32 b.sums[i]
  | none, some x, _ =>
    let side := match x.held with | none => 0 | some h => h.side.code
    let day := match x.held with | none => 0 | some h => h.day
    let values : Points Int := match x.held with | none => Vector.replicate 12 0 | some h => h.values
    [u8 x.incoming.val, u8 x.pairsRequired, u8 x.pairsDone, u8 side,
     u32 lots[x.incoming].code.toNat, u16 day] ++ (points.map fun i => s32 x.sums[i]) ++
      points.map fun i => s16 values[i]
  | none, none, some n => [u16 n.day, u8 n.lot.val, u8 n.level.code] ++ statsFields n.stats
  | none, none, none => []

/-- The code at byte 30 of the image: which part the part area holds. -/
def partCode (r : LineRecord) : Nat :=
  match r.baseline, r.crossover, r.snapshot with
  | some _, _, _ => 1
  | none, some _, _ => 2
  | none, none, some _ => 3
  | none, none, none => 0

/-- The indication byte 28 of the image. -/
def imageBits (r : LineRecord) : Nat :=
  r.attention.toNat + 2 * r.marginal.toNat + 4 * r.lapseEvent.toNat + 8 * r.mismatchEvent.toNat +
    16 * r.lastReading.isSome.toNat + 32 * r.lot.isSome.toNat + 64 * r.aims.isSome.toNat

/-- The lot code held by a record's current lot, 0 when it has none (R36). -/
def lotCodeOf (lots : Vector Lot 64) (lot : Option (Fin 64)) : Nat :=
  match lot with
  | none => 0
  | some i => lots[i].code.toNat

/-- The record image from offset 8 of the response block (R194). -/
def imageFields (lots : Vector Lot 64) (r : LineRecord) : List Field :=
  let aims : Points Int := r.aims.getD (Vector.replicate 12 0)
  [u32 (r.site % 2 ^ 20 + 2 ^ 20 * (r.lineNo % 8)), u8 r.region.val, u8 r.kind.code,
   u8 r.profile.val, u8 r.state.code, u16 r.creationDay, u16 r.closedDay,
   u16 (r.lastReading.getD 0), u16 r.readingCount, u8 r.countdown, u8 r.missed, u8 r.level.code,
   u8 r.ackLevel.code, u8 (imageBits r), u8 (r.lot.elim 0 (·.val)), u8 (partCode r),
   u32 (lotCodeOf lots r.lot)] ++
    (points.map fun i => s16 aims[i]) ++ statsFields r.stats ++ partFields lots r

end Sys2Proof.Machine
end

