-- ==== Sys2Proof/Machine/Flags.lean ====
section
/-! DEFINITION. The arithmetic of grading (R69 to R85), of means (R83), of the marking test (R145)
and of the indications of a verdict (R65, R66): every flag, level and mark the part computes. -/

namespace Sys2Proof.Machine

open Sys2Proof

/-! ## Levels (R79, R80) -/

/-- The higher of two levels. -/
def Level.max (a b : Level) : Level := if a.code < b.code then b else a

/-- The lower of two levels. -/
def Level.min (a b : Level) : Level := if b.code < a.code then b else a

/-- The level of a plot point: the highest level among its flags (R79). -/
def Flags.level (f : Flags) : Level :=
  if f.shift || f.drift then .action
  else if f.excursion || f.trend then .warning
  else .ok

/-- The level of a record: the highest point level among its plot points (R80). -/
def statsLevel (s : Points PointStats) : Level :=
  (points.map fun i => s[i].flags.level).foldl Level.max .ok

/-! ## Plot values and corrected values (R69, R70) -/

/-- The density at a position of the reading's 12 densities, in mD. -/
def density (rd : Reading) (i : Fin 12) : Int := (rd.densities[i].toNat : Int)

/-- The plot value of a plot point (R69): BASE, LOW for SPEED, HIGH less LOW for CONTRAST, MAX. -/
def plotValue (rd : Reading) (i : Fin 12) : Int :=
  let c := i.val % 3
  match (quantityOf i).val with
  | 0 => density rd ⟨c, by omega⟩
  | 1 => density rd ⟨3 + c, by omega⟩
  | 2 => density rd ⟨6 + c, by omega⟩ - density rd ⟨3 + c, by omega⟩
  | _ => density rd ⟨9 + c, by omega⟩

/-- The corrected values: plot value less the lot's offset (R70); positions that are no plot point
of the kind hold 0 (log 15). -/
def correctedValues (kind : ProcessKind) (offsets : Points Int) (rd : Reading) : Points Int :=
  build12 fun i => if isPoint kind i then plotValue rd i - offsets[i] else 0

/-! ## One point (R72 to R78) -/

/-- A CUSUM result bounded to 0 to 32767 (R73). -/
def boundCusum (v : Int) : Nat := Nat.min v.toNat 32767

/-- The new run count (R75). -/
def nextRun (d run : Int) : Int :=
  if d > 0 then (if run > 0 then (if run + 1 > 15 then 15 else run + 1) else 1)
  else if d < 0 then (if run < 0 then (if run - 1 < -15 then -15 else run - 1) else -1)
  else 0

/-- SHIFT: magnitude of the deviation above A (R76). -/
def isShift (l : Limits) (d : Int) : Bool := decide (l.a < d.natAbs)

/-- EXCURSION: magnitude above W and at most A (R76). -/
def isExcursion (l : Limits) (d : Int) : Bool := decide (l.w < d.natAbs) && decide (d.natAbs ≤ l.a)

/-- TREND: magnitude of the run count at or above the run limit (R77). -/
def isTrend (runLimit : Nat) (run : Int) : Bool := decide (runLimit ≤ run.natAbs)

/-- One point graded: deviation, CUSUMs, run count, flags, in the order of R71. -/
def gradePoint (l : Limits) (runLimit : Nat) (aim corrected : Int) (p : PointStats) : PointStats :=
  let d := corrected - aim
  let high := boundCusum (p.cusumHigh + d - l.k)
  let low := boundCusum (p.cusumLow - d - l.k)
  let run := nextRun d p.run
  { lastDev := some d
    cusumHigh := high
    cusumLow := low
    run := run
    flags :=
      { shift := isShift l d
        excursion := isExcursion l d
        trend := isTrend runLimit run
        drift := p.flags.drift || decide (l.h < high) || decide (l.h < low) } }

/-- One point after CLEAR_DRIFT (R90): sums and run 0, DRIFT and TREND cleared, SHIFT and EXCURSION
evaluated afresh from the last deviation, none when it is absent. -/
def clearPoint (l : Limits) (p : PointStats) : PointStats :=
  { lastDev := p.lastDev
    cusumHigh := 0
    cusumLow := 0
    run := 0
    flags :=
      { shift := p.lastDev.elim false (isShift l)
        excursion := p.lastDev.elim false (isExcursion l)
        trend := false
        drift := false } }

/-- The limits of a plot point's quantity. -/
def limitsOf (pr : Profile) (i : Fin 12) : Limits := pr.limits[quantityOf i]

/-- The statistics of a record with its plot points changed, and the positions that are no plot point
of its kind left as they stand. -/
def mapStats (kind : ProcessKind) (f : Fin 12 → PointStats → PointStats) (s : Points PointStats) :
    Points PointStats :=
  build12 fun i => if isPoint kind i then f i s[i] else s[i]

/-- Every plot point graded (R71). -/
def gradeStats (pr : Profile) (kind : ProcessKind) (aims corrected : Points Int)
    (s : Points PointStats) : Points PointStats :=
  mapStats kind (fun i p => gradePoint (limitsOf pr i) pr.runLimit aims[i] corrected[i] p) s

/-- Every plot point in its starting condition (R85). -/
def startStats : Points PointStats := Vector.replicate 12 PointStats.start

/-! ## Means (R83) -/

/-- A mean rounded to the nearest whole mD, halves away from zero (R83). -/
def roundMean (sum : Int) (count : Nat) : Int :=
  let q := sum.natAbs / count
  let r := sum.natAbs % count
  let q' := if count ≤ 2 * r then q + 1 else q
  if sum < 0 then -(q' : Int) else q'

/-- Pointwise sum. -/
def addPoints (a b : Points Int) : Points Int := build12 fun i => a[i] + b[i]

/-- Pointwise difference. -/
def subPoints (a b : Points Int) : Points Int := build12 fun i => a[i] - b[i]

/-- Whether a crossover is a match: on every plot point the magnitude of the mean difference is at
or below the tolerance of its quantity (R123). -/
def crossoverMatches (pr : Profile) (kind : ProcessKind) (sums : Points Int) (required : Nat) :
    Bool :=
  points.all fun i =>
    !isPoint kind i || decide ((roundMean sums[i] required).natAbs ≤ (limitsOf pr i).tolerance)

/-! ## The marking test of the Margin Survey (R145) -/

/-- Whether one point meets a margin limit: limits A × p / 100 and h × p / 100, truncating. -/
def pointMarginal (l : Limits) (margin : Nat) (p : PointStats) : Bool :=
  p.lastDev.elim false (fun d => decide (l.a * margin / 100 ≤ d.natAbs)) ||
    decide (l.h * margin / 100 ≤ p.cusumHigh) || decide (l.h * margin / 100 ≤ p.cusumLow)

/-- Whether a record is marked: ACTIVE, and some plot point of its kind meets a margin limit. -/
def marginalTest (pr : Profile) (margin : Nat) (r : LineRecord) : Bool :=
  decide (r.state = .active) &&
    points.any fun i => isPoint r.kind i && pointMarginal (limitsOf pr i) margin r.stats[i]

/-! ## Attention (R81) -/

/-- The condition of the attention bit: level above the acknowledged level, or an unacknowledged
event (R81). -/
def LineRecord.wantsAttention (r : LineRecord) : Bool :=
  decide (r.ackLevel.code < r.level.code) || r.lapseEvent || r.mismatchEvent

/-! ## Indications of a verdict (R65, R66) -/

/-- New kinds: each kind set on some plot point at the end and not on that point at the start. -/
def newKindsOf (before after : Points PointStats) : Flags :=
  let gained (f : Flags → Bool) : Bool := points.any fun i => f after[i].flags && !f before[i].flags
  { shift := gained Flags.shift
    excursion := gained Flags.excursion
    trend := gained Flags.trend
    drift := gained Flags.drift }

/-- Whether a point outranks the worst found so far: higher point level, or the same level and a
larger magnitude of last deviation (R65); of equals the first in plot-point order stays. -/
def outranks (s : Points PointStats) (best : Fin 12) (bestDev : Int) (i : Fin 12) (dev : Int) : Bool :=
  let lb := s[best].flags.level.code
  let li := s[i].flags.level.code
  decide (lb < li) || (decide (lb = li) && decide (bestDev.natAbs < dev.natAbs))

/-- The worst point among those whose last deviation is present (R65). -/
def worstOf (s : Points PointStats) : Option (Fin 12 × Int) :=
  points.foldl (fun best i =>
    match s[i].lastDev, best with
    | none, _ => best
    | some d, none => some (i, d)
    | some d, some (b, bd) => if outranks s b bd i d then some (i, d) else best) none

/-- The worst point of a record as its verdict reports it; channel code 3, visual, for MONO (R190). -/
def worstPoint (r : LineRecord) : Option WorstPoint :=
  (worstOf r.stats).map fun (i, d) =>
    { quantity := (quantityOf i).val
      channel := if r.kind = .mono then 3 else (channelOf i).val
      deviation := d }

end Sys2Proof.Machine
end

