-- ==== Sys2Proof/Machine/Ops.lean ====
section
/-! DEFINITION. The named operations the meanings share: the record table, key index and free-slot
ring; the table counts; attention; the day step and catch-up; the handling of a request on a named
record; and the Bus Link's latches and outward traffic. -/

namespace Sys2Proof.Machine

open Sys2Proof

/-! ## Record table (R1) -/

/-- The live record in a slot. -/
def RecordUnit.recordAt (u : RecordUnit) (slot : Nat) : Option LineRecord :=
  u.records.find? fun r => r.slot == slot

/-- The first live record at or above a slot: what a walk that passes over free slots reaches. -/
def RecordUnit.nextLive (u : RecordUnit) (slot : Nat) : Option LineRecord :=
  u.records.find? fun r => decide (slot ≤ r.slot)

/-- Put a record into the list at its slot's place, before the first higher slot. -/
def insertRecord (r : LineRecord) : List LineRecord → List LineRecord
  | [] => [r]
  | x :: xs => if r.slot < x.slot then r :: x :: xs else x :: insertRecord r xs

/-- Replace the record of a slot. -/
def RecordUnit.putRecord (u : RecordUnit) (r : LineRecord) : RecordUnit :=
  { u with records := u.records.map fun x => if x.slot = r.slot then r else x }

/-- Free a slot. -/
def RecordUnit.dropRecord (u : RecordUnit) (slot : Nat) : RecordUnit :=
  { u with records := u.records.filter fun x => x.slot != slot }

/-! ## Key index (R10, R11) -/

/-- The bucket of a key: (site × 8 + line) mod 1024 (R10). -/
def bucketOf (site lineNo : Nat) : Fin 1024 := ⟨(site * 8 + lineNo) % 1024, by omega⟩

/-- Walk a chain from its newest entry to the first slot whose record holds the key (R10). -/
def findInChain (u : RecordUnit) (site lineNo : Nat) : List Nat → Option LineRecord
  | [] => none
  | slot :: rest =>
    match u.recordAt slot with
    | some r => if r.site = site ∧ r.lineNo = lineNo then some r else findInChain u site lineNo rest
    | none => findInChain u site lineNo rest

/-- Look a key up (R10). -/
def RecordUnit.lookup (u : RecordUnit) (site lineNo : Nat) : Option LineRecord :=
  findInChain u site lineNo u.index[bucketOf site lineNo]

/-- Place a slot at the head of its key's chain (R11). -/
def RecordUnit.linkSlot (u : RecordUnit) (site lineNo slot : Nat) : RecordUnit :=
  let b := bucketOf site lineNo
  { u with index := u.index.set b.val (slot :: u.index[b]) b.isLt }

/-- Remove a slot from its key's chain; the others keep their order (R11). -/
def RecordUnit.unlinkSlot (u : RecordUnit) (site lineNo slot : Nat) : RecordUnit :=
  let b := bucketOf site lineNo
  { u with index := u.index.set b.val (u.index[b].filter (· != slot)) b.isLt }

/-! ## Free-slot ring (R12, R13) -/

/-- The number of slots the ring holds: (tail − head) mod 4096 (R13). -/
def RecordUnit.freeCount (u : RecordUnit) : Nat := (u.ringTail + 4096 - u.ringHead) % 4096

/-- The slot number at a position. -/
def RecordUnit.ringAt (u : RecordUnit) (position : Nat) : Nat := u.ring.getD (position % 4096) 0

/-- Take the slot at the head; none when the ring is empty (R13). -/
def RecordUnit.takeSlot (u : RecordUnit) : Option (Nat × RecordUnit) :=
  if u.ringHead = u.ringTail then none
  else some (u.ringAt u.ringHead, { u with ringHead := (u.ringHead + 1) % 4096 })

/-- Write a freed slot at the tail (R13). -/
def RecordUnit.returnSlot (u : RecordUnit) (slot : Nat) : RecordUnit :=
  { u with
    ring := u.ring.setIfInBounds u.ringTail slot
    ringTail := (u.ringTail + 1) % 4096 }

/-- The ring as initialisation fills it: positions 0 to 4094 hold slots 1 to 4095 (R12); the last
position keeps what it held. -/
def filledRing (old : Nat) : Vector Nat 4096 :=
  ⟨⟨List.range' 1 4095 ++ [old]⟩, by simp⟩

/-! ## Table entries and their counts -/

def RecordUnit.modifyProfile (u : RecordUnit) (i : Fin 32) (f : Profile → Profile) : RecordUnit :=
  { u with profiles := u.profiles.set i.val (f u.profiles[i]) i.isLt }

def RecordUnit.modifyLot (u : RecordUnit) (i : Fin 64) (f : Lot → Lot) : RecordUnit :=
  { u with lots := u.lots.set i.val (f u.lots[i]) i.isLt }

def RecordUnit.modifyRegion (u : RecordUnit) (i : Fin 64) (f : Region → Region) : RecordUnit :=
  { u with regions := u.regions.set i.val (f u.regions[i]) i.isLt }

/-- Every Lot Table entry number, in order. -/
def lotEntries : List (Fin 64) := List.finRange 64

/-- Every region number, in order. -/
def regionNumbers : List (Fin 64) := List.finRange 64

/-- The OPEN or WITHDRAWN entry that holds a lot code (R36). -/
def RecordUnit.findLot (u : RecordUnit) (code : Word) : Option (Fin 64) :=
  lotEntries.find? fun i => u.lots[i].state != .free && u.lots[i].code == code

/-- The lowest-numbered FREE entry (R38). -/
def RecordUnit.firstFreeLot (u : RecordUnit) : Option (Fin 64) :=
  lotEntries.find? fun i => u.lots[i].state == .free

def addProfileUse (u : RecordUnit) (i : Fin 32) : RecordUnit :=
  u.modifyProfile i fun p => { p with useCount := p.useCount + 1 }

def dropProfileUse (u : RecordUnit) (i : Fin 32) : RecordUnit :=
  u.modifyProfile i fun p => { p with useCount := p.useCount - 1 }

def addCurrentUser (u : RecordUnit) (i : Fin 64) : RecordUnit :=
  u.modifyLot i fun l => { l with currentUsers := l.currentUsers + 1 }

def dropCurrentUser (u : RecordUnit) (i : Fin 64) : RecordUnit :=
  u.modifyLot i fun l => { l with currentUsers := l.currentUsers - 1 }

def addIncomingUser (u : RecordUnit) (i : Fin 64) : RecordUnit :=
  u.modifyLot i fun l => { l with incomingUsers := l.incomingUsers + 1 }

def dropIncomingUser (u : RecordUnit) (i : Fin 64) : RecordUnit :=
  u.modifyLot i fun l => { l with incomingUsers := l.incomingUsers - 1 }

def addLive (u : RecordUnit) (i : Fin 64) : RecordUnit :=
  u.modifyRegion i fun g => { g with liveCount := g.liveCount + 1 }

def dropLive (u : RecordUnit) (i : Fin 64) : RecordUnit :=
  u.modifyRegion i fun g => { g with liveCount := g.liveCount - 1 }

/-- Add 1 to a region's attention count. -/
def addAttention (u : RecordUnit) (i : Fin 64) : RecordUnit :=
  u.modifyRegion i fun g => { g with attentionCount := g.attentionCount + 1 }

/-- Take 1 from a region's attention count. -/
def dropAttention (u : RecordUnit) (i : Fin 64) : RecordUnit :=
  u.modifyRegion i fun g => { g with attentionCount := g.attentionCount - 1 }

/-- Whether the next addition to a region's attention count passes it from 0 (R134). -/
def attentionAtZero (u : RecordUnit) (i : Fin 64) : Bool := u.regions[i].attentionCount == 0

/-! ## A touched record -/

/-- A record under work within one request or step: the record, the Record Unit around it (whose own
copy of the record is written back by `commit`), and whether the ATTENTION source has been latched
so far (R134). -/
structure Touch where
  line : LineRecord
  unit : RecordUnit
  attention : Bool

/-- Change the record under work. -/
def Touch.mapLine (t : Touch) (f : LineRecord → LineRecord) : Touch := { t with line := f t.line }

/-- Change the Record Unit around it. -/
def Touch.mapUnit (t : Touch) (f : RecordUnit → RecordUnit) : Touch := { t with unit := f t.unit }

/-- The Record Unit with the record written back. -/
def Touch.commit (t : Touch) : RecordUnit := t.unit.putRecord t.line

/-- The profile the record names. -/
def Touch.profile (t : Touch) : Profile := t.unit.profiles[t.line.profile]

/-- The region the record belongs to. -/
def Touch.region (t : Touch) : Region := t.unit.regions[t.line.region]

/-- The version advance of R9, wrapping from 65535 to 0. -/
def Touch.bumpVersion (t : Touch) : Touch :=
  t.mapLine fun r => { r with version := r.version + 1 }

/-- Recompute the attention bit; the region's attention count follows a change, and a passage of the
count from 0 latches ATTENTION (R81, R133, R134). -/
def Touch.recomputeAttention (t : Touch) : Touch :=
  if t.line.wantsAttention = t.line.attention then t
  else if t.line.wantsAttention then
    { line := { t.line with attention := true }
      unit := addAttention t.unit t.line.region
      attention := t.attention || attentionAtZero t.unit t.line.region }
  else
    { line := { t.line with attention := false }
      unit := dropAttention t.unit t.line.region
      attention := t.attention }

/-- Store the level derived from the flags and let the acknowledged level follow it down
(R80, R81). -/
def LineRecord.settleLevel (r : LineRecord) : LineRecord :=
  { r with level := statsLevel r.stats, ackLevel := r.ackLevel.min (statsLevel r.stats) }

/-- The statistics reset (R85). -/
def LineRecord.resetStats (r : LineRecord) : LineRecord :=
  { r with stats := startStats }.settleLevel

/-! ## Day step and catch-up (R99 to R105) -/

/-- Entry into LAPSED (R105), with the missed count already at the value that lapsed the record. -/
def Touch.lapse (t : Touch) : Touch :=
  let t := match t.line.crossover with
    | none => t
    | some x => t.mapUnit (dropIncomingUser · x.incoming)
  let t := t.mapLine fun r =>
    { r with
      state := .lapsed, countdown := 0, lapseEvent := true, crossover := none, snapshot := none }
  t.bumpVersion.recomputeAttention

/-- The countdown brought down to the strip interval where it is above it (R31). -/
def clampCountdown (interval countdown : Nat) : Nat :=
  if interval < countdown then interval else countdown

/-- Step 2 of a day step under RUN (R102). -/
def Touch.stepRun (t : Touch) : Touch :=
  let interval := t.profile.stripInterval
  let c := clampCountdown interval t.line.countdown - 1
  if c = 0 then
    let t' := t.mapLine fun r => { r with missed := r.missed + 1, countdown := interval }
    if t.profile.lapseLimit ≤ t.line.missed + 1 then t'.lapse else t'
  else t.mapLine fun r => { r with countdown := c }

/-- Step 2 of a day step under HOLD_AT_DUE (R103). -/
def Touch.stepHoldAtDue (t : Touch) : Touch :=
  let c := clampCountdown t.profile.stripInterval t.line.countdown
  t.mapLine fun r => { r with countdown := if 1 < c then c - 1 else c }

/-- Whether a record counts business days: ACTIVE or REINSTATING (R101). -/
def LineRecord.counting (r : LineRecord) : Bool :=
  decide (r.state = .active) || decide (r.state = .reinstating)

/-- Step 1 of a day step: the held reading and the snapshot are dropped (R101). -/
def LineRecord.dropDayParts (r : LineRecord) : LineRecord :=
  { r with
    crossover := r.crossover.map fun x => { x with held := none }
    snapshot := none }

/-- One day step (R101). -/
def Touch.dayStep (t : Touch) : Touch :=
  let t := t.mapLine LineRecord.dropDayParts
  let t :=
    if t.line.counting then
      match t.region.closing with
      | .run => t.stepRun
      | .holdAtDue => t.stepHoldAtDue
      | .hold => t
    else t
  t.mapLine fun r => { r with closedDay := r.closedDay + 1 }

/-- A number of day steps. -/
def Touch.daySteps : Nat → Touch → Touch
  | 0, t => t
  | n + 1, t => Touch.daySteps n t.dayStep

/-- Catch-up: one day step for each day the record is behind the business day (R99). -/
def Touch.catchUp (t : Touch) : Touch :=
  Touch.daySteps (t.unit.businessDay - t.line.closedDay) t

/-- A record taken up for work and caught up. -/
def touch (u : RecordUnit) (r : LineRecord) : Touch :=
  (Touch.mk r u false).catchUp

/-! ## Requests carried out by the Record Unit -/

/-- What carrying out a request gives: the Record Unit after it, whether ATTENTION is latched within
it, and its response. -/
structure Carried where
  unit : RecordUnit
  attention : Bool
  reply : Reply

/-- A request that changes nothing and answers. -/
def answer (u : RecordUnit) (r : Reply) : Carried := ⟨u, false, r⟩

/-- The range check of the key of a request (R17): site 0 or above 1,048,575, or line above 7. -/
def keyOutOfRange (site : Word) (line : Byte) : Bool :=
  decide (site.toNat = 0) || decide (1048575 < site.toNat) || decide (7 < line.toNat)

/-- Whether the expected version of a change request is present and differs (R18). -/
def versionDiffers (h : Header) (r : LineRecord) : Bool :=
  versionPresent h && h.version != r.version

/-- How a request on a named record ended: refused with a status, or accepted with the Record Unit
that its own changes leave. -/
inductive Ending where
  | refused (status : Status)
  | accepted (t : Touch)
  | retired (t : Touch) (unit : RecordUnit)

/-- The common handling of a request on a named record (R17): range check, lookup, catch-up,
expected version for a change request, then the request's own checks and changes in `body`.
`missing` is the content when no record was found (R157), `report` the content from the record and
tables at the end of the request. -/
def onLine (u : RecordUnit) (h : Header) (site : Word) (line : Byte) (outOfRange change : Bool)
    (missing : List Field) (report : Touch → List Field) (body : Touch → Ending) : Carried :=
  if keyOutOfRange site line || outOfRange then answer u (.plain .badParameter missing)
  else
    match u.lookup site.toNat line.toNat with
    | none => answer u (.plain .noRecord missing)
    | some r =>
      let t := touch u r
      let close (t : Touch) (u : RecordUnit) (status : Status) : Carried :=
        ⟨u, t.attention, ⟨status, t.line.slot, t.line.version, report t⟩⟩
      if change && versionDiffers h t.line then close t t.commit .versionMismatch
      else
        match body t with
        | .refused status => close t t.commit status
        | .accepted t' => close t' t'.commit .accepted
        | .retired t' u' => close t' u' .accepted

/-! ## Bus Link: sources, output, outward traffic (R183 to R188) -/

/-- The bit of a source in the status and enable registers (R179). -/
def Source.bit : Source → Nat
  | .ready => 0
  | .commandDone => 1
  | .batchEnd => 2
  | .nextTaken => 3
  | .attention => 4
  | .sweepDone => 5
  | .surveyDone => 6

/-- The status word of one source. -/
def Source.mask (src : Source) : BitVec 7 := BitVec.twoPow 7 src.bit

/-- Latch a source, whatever its enable (R183). -/
def State.latch (s : State) (src : Source) : State :=
  { s with bus := { s.bus with status := s.bus.status ||| src.mask } }

/-- Latch ATTENTION where a request or step has passed a region's count from 0 (R134). -/
def State.latchAttention (s : State) (passed : Bool) : State :=
  if passed then s.latch .attention else s

/-- The interrupt output: some latched source has its enable set (R184). -/
def BusLink.output (b : BusLink) : Bool := b.status &&& b.enable != 0

/-- The interrupt output of the part. -/
def State.intOutput (s : State) : Bool := s.bus.output

/-- At the end of an event: a passage of the output from deasserted to asserted sends one interrupt
message, where message signalling and bus mastering are enabled (R184, R185). The output is taken
before and after the whole event, so the message leaves behind every verdict write of the event
(R187; log 9). -/
def settle (before after : State) : State :=
  if !before.intOutput && after.intOutput && after.bus.msiEnabled && after.bus.busMaster then
    { after with
      bus := { after.bus with
        outbound := after.bus.outbound ++ [.message after.bus.msiAddress after.bus.msiData] } }
  else after

/-- One event of the part outside cold reset. While cold reset is held the part answers no access
and nothing in it acts (R182; log 8). -/
def event (s : State) (f : State → State) : Host.Outcome State Fault Refusal :=
  if s.inColdReset then .next s else .next (settle s (f s))

/-- The parts of a bus-master access of `length` bytes: one, or two where it crosses a 4 KiB boundary
of host address (R186, R187). -/
def splitAccess (address : DWord) (length : Nat) : List (DWord × Nat) :=
  let room := 4096 - address.toNat % 4096
  if length ≤ room then [(address, length)]
  else [(address, room), (address + BitVec.ofNat 64 room, length - room)]

/-- The posted writes that carry a verdict: one, or two where it crosses a 4 KiB boundary (R187), the part
below the boundary first (log 31). -/
def writeItems (address : DWord) (bytes : List Byte) : List LinkItem :=
  match splitAccess address bytes.length with
  | [_] => [.write address bytes]
  | [(a, n), (b, _)] => [.write a (bytes.take n), .write b (bytes.drop n)]
  | _ => []

/-- Issue a verdict write; with bus mastering disabled it is not sent and is lost (R187). -/
def State.postWrite (s : State) (address : DWord) (bytes : List Byte) : State :=
  if s.bus.busMaster then
    { s with bus := { s.bus with outbound := s.bus.outbound ++ writeItems address bytes } }
  else s

/-- The link sends the oldest item issued (log 4). -/
def State.sendOldest (s : State) : State :=
  match s.bus.outbound with
  | [] => s
  | item :: rest =>
    { s with bus := { s.bus with outbound := rest, sent := s.bus.sent ++ [item] } }

/-- A reset discards what was issued and not yet sent; how much had been sent is a free value
(R182, R188; log 5). -/
def State.discardOutbound (s : State) : State :=
  match s.bus.outbound with
  | [] => s
  | items =>
    { s with
      linkTick := s.linkTick + 1
      bus := { s.bus with
        outbound := []
        sent := s.bus.sent ++ items.take (Config.linkSent s.linkTick) } }

end Sys2Proof.Machine
end

