-- ==== Sys2Proof/Machine/Readings.lean ====
section
/-! DEFINITION. A reading at the Record Unit (chapters Admitting a Reading, Grading, Lot Crossover):
admission checks, handling by state, crossover pairing, the effects of an evaluated reading, the
verdict; and SUBMIT_READING as the Record Unit carries it out. -/

namespace Sys2Proof.Machine

open Sys2Proof

/-! ## Admission (R48 to R52) -/

/-- What an accepted reading is attached to: its lot's entry, and whether that is the record's
incoming lot (R51). -/
structure Attached where
  lot : Fin 64
  incoming : Bool
  deriving DecidableEq, Repr

/-- Check 3: every density in 0 to 5000, and a MONO reading 0 in every red and blue field (R49). -/
def densitiesInRange (kind : ProcessKind) (rd : Reading) : Bool :=
  points.all fun i =>
    decide (rd.densities[i].toNat ≤ 5000) && (isPoint kind i || rd.densities[i] == 0)

/-- The record's incoming lot, if a crossover is open. -/
def LineRecord.incomingLot (r : LineRecord) : Option (Fin 64) := r.crossover.map (·.incoming)

/-- Check 9 for a REPLACE reading (R52): ACTIVE, no crossover, and a snapshot of the reading's day
and lot. -/
def replaceable (r : LineRecord) (rd : Reading) (lot : Fin 64) : Bool :=
  decide (r.state = .active) && r.crossover.isNone &&
    r.snapshot.elim false fun n => decide (n.day = rd.day) && decide (n.lot = lot)

/-- Check 10 for a reading with REPLACE clear (R52): the status that refuses it, if any. -/
def dayOrder (r : LineRecord) (rd : Reading) (incoming : Bool) : Option Status :=
  if incoming then
    match r.crossover.bind (·.held) with
    | some h => if h.side = .new ∧ h.day = rd.day then some .duplicateDay else none
    | none => none
  else
    match r.lastReading with
    | some last =>
      if rd.day < last then some .outOfOrder
      else if rd.day = last then some .duplicateDay
      else none
    | none => none

/-- The admission checks 2 to 10 in their order (R49), on a record that was found and caught up. -/
def admitReading (u : RecordUnit) (r : LineRecord) (rd : Reading) : Except Status Attached :=
  if kindOfCode rd.kind.toNat ≠ some r.kind then .error .wrongKind
  else if !densitiesInRange r.kind rd then .error .range
  else if u.businessDay < rd.day then .error .futureDay
  else if rd.day + 7 < u.businessDay then .error .tooOld
  else
    match u.findLot rd.lotCode with
    | none => .error .unknownLot
    | some lot =>
      if u.lots[lot].state = .withdrawn then .error .lotWithdrawn
      else if r.state = .lapsed then .error .lapsed
      else if r.lot ≠ some lot ∧ r.incomingLot ≠ some lot then .error .lotNotAttached
      else if r.crossover.isSome ∧ rd.day ≠ u.businessDay then .error .crossoverDay
      else if rd.replace then
        if replaceable r rd lot then .ok ⟨lot, decide (r.lot ≠ some lot)⟩ else .error .noSnapshot
      else
        match dayOrder r rd (decide (r.lot ≠ some lot)) with
        | some status => .error status
        | none => .ok ⟨lot, decide (r.lot ≠ some lot)⟩

/-! ## Handling by state (R54 to R61) -/

/-- What handling a reading gives: the touched record, the outcome, and the crossover progress to
report when the reading completed the last pair (R65). -/
structure Handled where
  touched : Touch
  outcome : ReadingOutcome
  ended : Option Nat

/-- The record's aims; absent aims read as 0 (no ACTIVE or REINSTATING record lacks them, R5). -/
def LineRecord.aimValues (r : LineRecord) : Points Int := r.aims.getD (Vector.replicate 12 0)

/-- A grading of the record from its present statistics: every point, then the level and the
acknowledged level (R71). -/
def Touch.grade (t : Touch) (corrected : Points Int) : Touch :=
  t.mapLine fun r =>
    { r with stats := gradeStats t.profile r.kind r.aimValues corrected r.stats }.settleLevel

/-- The effects of every evaluated reading (R62). -/
def Touch.evaluated (t : Touch) (day : Nat) : Touch :=
  let interval := t.profile.stripInterval
  let age := t.unit.businessDay - day
  let t := t.mapLine fun r =>
    { r with
      lastReading := some day
      countdown := if r.state = .active then max 1 (interval - age) else r.countdown
      missed := 0
      readingCount := min 65535 (r.readingCount + 1)
      marginal := false }
  t.bumpVersion.recomputeAttention

/-- Baseline completion (R84): aims from the rounded means, baseline part dropped, ACTIVE,
statistics reset, missed count 0. -/
def LineRecord.completeBaseline (r : LineRecord) (b : Baseline) : LineRecord :=
  { r.resetStats with
    aims := some (build12 fun i => roundMean b.sums[i] b.taken)
    baseline := none
    state := .active
    missed := 0 }

/-- A baseline reading (R55, R56): `b` is the baseline part with the reading in it. The profile's
baseline count is read after the reading has been added. -/
def Touch.takeBaseline (t : Touch) (b : Baseline) : Touch × ReadingOutcome :=
  if t.profile.baselineCount ≤ b.taken then
    (t.mapLine (·.completeBaseline b), .baselineDone)
  else
    (t.mapLine fun r => { r with state := .baseline, baseline := some b }, .baselineTaken)

/-- The baseline part after a further reading (R56). -/
def Baseline.add (b : Baseline) (corrected : Points Int) : Baseline :=
  ⟨b.taken + 1, addPoints b.sums corrected⟩

/-- The snapshot of a record's statistics (R63). -/
def LineRecord.takeSnapshot (r : LineRecord) (day : Nat) (lot : Fin 64) : LineRecord :=
  { r with snapshot := some ⟨day, lot, r.stats, r.level⟩ }

/-- The snapshot's statistics and level restored; the snapshot itself is kept (R59). -/
def LineRecord.restoreSnapshot (r : LineRecord) : LineRecord :=
  match r.snapshot with
  | none => r
  | some n => { r with stats := n.stats, level := n.level }

/-- The other side. -/
def Side.other : Side → Side
  | .old => .new
  | .new => .old

/-- Hold a crossover reading for its partner (R119). -/
def Touch.hold (t : Touch) (x : Crossover) (side : Side) (day : Nat) (values : Points Int) : Touch :=
  t.mapLine fun r => { r with crossover := some { x with held := some ⟨side, day, values⟩ } }

/-- A match (R124): the incoming lot becomes current, the lot counts follow, the part is dropped. -/
def Touch.switchLot (t : Touch) (x : Crossover) : Touch :=
  let t := match t.line.lot with
    | none => t
    | some old => t.mapUnit (dropCurrentUser · old)
  let t := t.mapUnit fun u => addCurrentUser (dropIncomingUser u x.incoming) x.incoming
  t.mapLine fun r => { r with lot := some x.incoming, crossover := none }

/-- A mismatch (R125): the part is dropped, MISMATCH is added, attention is recomputed. -/
def Touch.mismatchCrossover (t : Touch) (x : Crossover) : Touch :=
  let t := t.mapUnit (dropIncomingUser · x.incoming)
  (t.mapLine fun r => { r with crossover := none, mismatchEvent := true }).recomputeAttention

/-- A pair completes (R122): NEW less OLD into the sums, pairs done up by 1, held reading dropped,
and with the last pair the crossover completes (R123). -/
def Touch.completePair (t : Touch) (x : Crossover) (newValues oldValues : Points Int) : Handled :=
  let sums := addPoints x.sums (subPoints newValues oldValues)
  let done := x.pairsDone + 1
  if done = x.pairsRequired then
    if crossoverMatches t.profile t.line.kind sums x.pairsRequired then
      ⟨t.switchLot x, .switched, some x.pairsRequired⟩
    else ⟨t.mismatchCrossover x, .mismatch, some x.pairsRequired⟩
  else
    ⟨t.mapLine fun r =>
        { r with crossover := some { x with sums := sums, pairsDone := done, held := none } },
      .paired, none⟩

/-- Whether both lots of a crossover are OPEN (R122). -/
def bothOpen (t : Touch) (x : Crossover) : Bool :=
  t.unit.lots[x.incoming].state == .opened &&
    t.line.lot.elim false fun i => t.unit.lots[i].state == .opened

/-- A crossover reading meets the crossover part (R120, R121): it pairs with a held reading of the
other side for its day, or does not pair while a lot is WITHDRAWN, or is held. -/
def Touch.meet (t : Touch) (side : Side) (day : Nat) (values : Points Int) : Handled :=
  let heldOutcome : ReadingOutcome := match side with | .old => .none | .new => .held
  match t.line.crossover with
  | none => ⟨t, .none, none⟩
  | some x =>
    match x.held with
    | none => ⟨t.hold x side day values, heldOutcome, none⟩
    | some h =>
      if h.side = side.other ∧ h.day = day then
        if bothOpen t x then
          match side with
          | .old => t.completePair x h.values values
          | .new => t.completePair x values h.values
        else ⟨t, .none, none⟩
      else ⟨t.hold x side day values, heldOutcome, none⟩

/-- An accepted incoming-lot reading (R61): version up by 1, then the NEW side of the pair. -/
def handleIncoming (t : Touch) (rd : Reading) (corrected : Points Int) : Handled :=
  t.bumpVersion.meet .new rd.day corrected

/-- An accepted current-lot reading of an ACTIVE record (R58, R59, R60). With a crossover open the
effects of the evaluated reading come before the pairing (R120; log 10). -/
def handleActive (t : Touch) (rd : Reading) (lot : Fin 64) (corrected : Points Int) : Handled :=
  if t.line.crossover.isSome then
    ((t.grade corrected).evaluated rd.day).meet .old rd.day corrected
  else if rd.replace then
    ⟨((t.mapLine (·.restoreSnapshot)).grade corrected).evaluated rd.day, .replaced, none⟩
  else
    let t := t.mapLine fun r =>
      if rd.day = t.unit.businessDay then r.takeSnapshot rd.day lot else { r with snapshot := none }
    ⟨(t.grade corrected).evaluated rd.day, .none, none⟩

/-- An accepted current-lot reading of a record in REINSTATING (R57). -/
def handleReinstating (t : Touch) (rd : Reading) (corrected : Points Int) : Handled :=
  let t := (t.mapLine fun r => { r.resetStats with state := .active }).grade corrected
  ⟨t.evaluated rd.day, .reinstated, none⟩

/-- A baseline reading with the effects of an evaluated reading (R55, R56). -/
def handleBaseline (t : Touch) (rd : Reading) (b : Baseline) : Handled :=
  let (t, outcome) := t.takeBaseline b
  ⟨t.evaluated rd.day, outcome, none⟩

/-- An accepted reading, by the case it falls in (R54). A LAPSED record takes no reading (R51). -/
def handle (t : Touch) (rd : Reading) (a : Attached) : Handled :=
  let corrected := correctedValues t.line.kind t.unit.lots[a.lot].offsets rd
  if a.incoming then handleIncoming t rd corrected
  else
    match t.line.state with
    | .new => handleBaseline t rd ⟨1, corrected⟩
    | .baseline =>
      handleBaseline t rd ((t.line.baseline.getD ⟨0, Vector.replicate 12 0⟩).add corrected)
    | .reinstating => handleReinstating t rd corrected
    | .active => handleActive t rd a.lot corrected
    | .lapsed => ⟨t, .none, none⟩

/-! ## The verdict (R53, R65, R66) -/

/-- The crossover progress of a record: pairs done and required of an open crossover, or 0 of 0. -/
def LineRecord.progress (r : LineRecord) : Nat × Nat :=
  match r.crossover with
  | none => (0, 0)
  | some x => (x.pairsDone, x.pairsRequired)

/-- The verdict of a reading whose record was found: `start` is the record after catch-up, `r` the
record at the end of the request (R65, R66). -/
def recordVerdict (rd : Reading) (status : Status) (outcome : ReadingOutcome) (start r : LineRecord)
    (progress : Nat × Nat) : Verdict :=
  { hostTag := rd.hostTag
    site := rd.site
    line := rd.line
    status := status
    outcome := outcome
    state := r.state
    slot := r.slot
    version := r.version
    level := r.level
    ackLevel := r.ackLevel
    attention := r.attention
    newAction := decide (start.level ≠ .action) && decide (r.level = .action)
    newKinds := newKindsOf start.stats r.stats
    worst := worstPoint r
    pairsDone := progress.1
    pairsRequired := progress.2
    countdown := r.countdown }

/-- What carrying out a reading gives. -/
structure Graded where
  unit : RecordUnit
  attention : Bool
  verdict : Verdict

/-- The handling of a reading whose record was found and caught up (R49, R53, R54, R65). -/
def admitAndHandle (t : Touch) (rd : Reading) : Graded :=
  match admitReading t.unit t.line rd with
  | .error status =>
    ⟨t.commit, t.attention, recordVerdict rd status .none t.line t.line t.line.progress⟩
  | .ok a =>
    let d := handle t rd a
    let r := d.touched.line
    let progress := match d.ended with | some n => (n, n) | none => r.progress
    ⟨d.touched.commit, d.touched.attention, recordVerdict rd .accepted d.outcome t.line r progress⟩

/-- A reading carried out by the Record Unit, by either route: lookup, catch-up, admission, handling
and verdict (R48 to R66). -/
def carryReading (u : RecordUnit) (raw : RawReading) : Graded :=
  let rd := parseReading raw
  match u.lookup rd.site.toNat rd.line.toNat with
  | none => ⟨u, false, Verdict.noRecord rd .noRecord⟩
  | some r => admitAndHandle (touch u r) rd

/-- SUBMIT_READING carried out: the response content is the verdict, and its slot and version are
the verdict's (R156, R161). -/
def carrySubmitReading (u : RecordUnit) (raw : RawReading) : Carried :=
  let g := carryReading u raw
  ⟨g.unit, g.attention, ⟨g.verdict.status, g.verdict.slot, g.verdict.version, g.verdict.fields⟩⟩

end Sys2Proof.Machine
end

