-- ==== Sys2Proof/Machine/Batch.lean ====
section
/-! DEFINITION. The Batch Engine (chapter Batch Engine): descriptors, arming and promotion, the
fetch and its events, the verdict write and advance, the ends of a batch, ABORT, PAUSE, RESUME. -/

namespace Sys2Proof.Machine

open Sys2Proof

/-- Change the engine. -/
def State.mapEngine (s : State) (f : BatchEngine → BatchEngine) : State :=
  { s with engine := f s.engine }

/-! ## Fetch and promotion (R167, R168, R186) -/

/-- The bytes of a reading record. -/
def readingLength : Nat := 48

/-- The bytes of a verdict record. -/
def verdictLength : Nat := 32

/-- Issue the fetch of the reading at FRONT's current source address (R168). With bus mastering
disabled nothing is put on the link (R186). -/
def State.issueFetch (s : State) : State :=
  match s.engine.front with
  | none => s
  | some f =>
    let reads : List LinkRead :=
      if s.bus.busMaster then (splitAccess f.source readingLength).map fun p => ⟨p.1, p.2⟩ else []
    { s with
      fetchSerial := s.fetchSerial + 1
      engine := { s.engine with flight := some (.fetch s.fetchSerial reads) } }

/-- FRONT as promotion makes it from the NEXT fields (R164, R167). -/
def Descriptor.toFront (d : Descriptor) : Front :=
  { count := d.count, options := d.options, source := d.source, result := d.result,
    processed := 0, remaining := d.count.toNat }

/-- Promotion (R167). -/
def State.promote (s : State) : State :=
  let paused := s.engine.pauseRequested
  let s := s.mapEngine fun e =>
    { e with
      phase := if paused then .paused else .running
      front := some e.next.toFront
      next := Descriptor.zero
      armed := false
      pauseRequested := false
      abortPending := false
      flight := none }
  let s := s.latch .nextTaken
  if paused then s else s.issueFetch

/-! ## The end of a batch (R174) -/

/-- The end report of FRONT's end (R174). -/
def endReport (f : Front) (cause : EndCause) (cancelled : Bool) : EndReport :=
  { cause := cause, processed := f.processed, remaining := f.remaining, nextSource := f.source,
    nextResult := f.result, nextCancelled := cancelled }

/-- The engine with FRONT dropped and IDLE; an armed NEXT is cancelled (R174). -/
def BatchEngine.dropFront (e : BatchEngine) : BatchEngine :=
  { e with
    phase := .idle
    front := none
    next := if e.armed then Descriptor.zero else e.next
    armed := false
    pauseRequested := false
    abortPending := false
    flight := none }

/-- The batch in FRONT ends with a cause (R174): report, BATCH_END, then promotion of an armed NEXT
on COMPLETE, else NEXT cancelled, FRONT dropped, IDLE. -/
def State.endBatch (s : State) (cause : EndCause) : State :=
  match s.engine.front with
  | none => s
  | some f =>
    let promoted := s.engine.armed && cause == .complete
    let cancelled := s.engine.armed && cause != .complete
    let s := (s.mapEngine fun e => { e with report := endReport f cause cancelled }).latch .batchEnd
    if promoted then s.promote else s.mapEngine BatchEngine.dropFront

/-! ## The verdict write and the advance (R172, R173) -/

/-- FRONT after a reading has been processed (R172); addresses wrap at the top of the 64-bit space. -/
def Front.advance (f : Front) : Front :=
  { f with
    processed := f.processed + 1
    remaining := f.remaining - 1
    source := f.source + BitVec.ofNat 64 readingLength
    result := f.result + BitVec.ofNat 64 verdictLength }

/-- The first end cause that holds after an advance (R173). -/
def endCauseOf (f : Front) (abortPending : Bool) (v : Verdict) : Option EndCause :=
  if abortPending then some .aborted
  else if f.options.onAction && v.newAction then some .stopAction
  else if f.options.onRefusal && v.status != .accepted then some .stopRefusal
  else if f.remaining = 0 then some .complete
  else none

/-- A reading has been processed: its verdict is written, the counters advance, the batch ends, or
the engine pauses, or the next fetch is issued (R172, R173, R176). -/
def State.processReading (s : State) (v : Verdict) : State :=
  match s.engine.front with
  | none => s
  | some f =>
    let f' := f.advance
    let s := s.postWrite f.result v.bytes
    let s := s.mapEngine fun e => { e with front := some f', flight := none }
    match endCauseOf f' s.engine.abortPending v with
    | some cause => s.endBatch cause
    | none =>
      if s.engine.pauseRequested then
        s.mapEngine fun e => { e with phase := .paused, pauseRequested := false }
      else s.issueFetch

/-! ## Fetch events (R169, R170) -/

/-- A successful completion of a fetch (R169, R170). A completion for a fetch that has ended, or that
was never sent, is discarded (log 7). A reading submitted waits at the arbiter from this event, even
behind one of before a port reset (R178; log 29). -/
def readCompletion (fetch : Nat) (data : RawReading) (s : State) : State :=
  match s.engine.flight with
  | some (.fetch serial reads) =>
    if serial = fetch ∧ reads ≠ [] then
      if checkPasses data then
        s.mapEngine fun e => { e with flight := some (.submitted data) }
      else s.processReading (Verdict.noRecord (parseReading data) .badCheck)
    else s
  | _ => s

/-- A completion with error status ends the batch FETCH_ERROR; one for a fetch that has ended is
discarded (R169, R186). -/
def fetchError (fetch : Nat) (s : State) : State :=
  match s.engine.flight with
  | some (.fetch serial _) => if serial = fetch then s.endBatch .fetchError else s
  | _ => s

/-- The 2 ms timeout of the fetch outstanding ends the batch FETCH_TIMEOUT (R169). -/
def fetchTimeout (s : State) : State :=
  match s.engine.flight with
  | some (.fetch _ _) => s.endBatch .fetchTimeout
  | _ => s

/-! ## Control-word actions (R166, R175, R176) -/

/-- Whether a 64-bit address is a multiple of 16 (R165). -/
def aligned16 (address : DWord) : Bool := address.toNat % 16 == 0

/-- Whether an ARM is refused (R166). -/
def armIsRefused (s : State) : Bool :=
  decide (s.readiness = .initialising) || s.engine.armed || s.engine.next.count == 0 ||
    !aligned16 s.engine.next.source || !aligned16 s.engine.next.result

/-- ARM (R166). -/
def armNext (s : State) : State :=
  if armIsRefused s then s.mapEngine fun e => { e with armRefused := true }
  else
    let s := s.mapEngine fun e => { e with armed := true }
    if s.engine.phase = .idle then s.promote else s

/-- ABORT (R175), by the engine's condition. -/
def abortBatch (s : State) : State :=
  match s.engine.phase with
  | .idle => s
  | .paused => s.endBatch .aborted
  | .running =>
    if s.engine.abortPending then s
    else
      match s.engine.flight with
      | some .granted =>
        s.mapEngine fun e => { e with abortPending := true, pauseRequested := false }
      | _ => s.endBatch .aborted

/-- PAUSE (R176). -/
def pauseBatch (s : State) : State :=
  if s.engine.phase = .running then s.mapEngine fun e => { e with pauseRequested := true } else s

/-- RESUME (R176). -/
def resumeBatch (s : State) : State :=
  match s.engine.phase with
  | .idle => s
  | .paused => (s.mapEngine fun e => { e with phase := .running }).issueFetch
  | .running => s.mapEngine fun e => { e with pauseRequested := false }

/-- ARM_REFUSED cleared (R166). -/
def clearArmRefused (s : State) : State := s.mapEngine fun e => { e with armRefused := false }

/-! ## NEXT fields (R165, R179, R180) -/

/-- The low 32 bits of an address replaced. -/
def setLow (address : DWord) (value : Word) : DWord := (address.extractLsb' 32 32) ++ value

/-- The high 32 bits of an address replaced. -/
def setHigh (address : DWord) (value : Word) : DWord := value ++ (address.extractLsb' 0 32)

/-- The NEXT fields after a write. -/
def nextFieldsAfter (d : Descriptor) (w : NextWrite) : Descriptor :=
  match w with
  | .source v => { d with source := v }
  | .sourceLow v => { d with source := setLow d.source v }
  | .sourceHigh v => { d with source := setHigh d.source v }
  | .count v => { d with count := v.setWidth 16 }
  | .options v => { d with options := ⟨v.getLsbD 0, v.getLsbD 1⟩ }
  | .result v => { d with result := v }
  | .resultLow v => { d with result := setLow d.result v }
  | .resultHigh v => { d with result := setHigh d.result v }

/-- A write to a NEXT field: stored when NEXT is not armed, ignored when it is (R165). -/
def writeNext (w : NextWrite) (s : State) : State :=
  if s.engine.armed then s else s.mapEngine fun e => { e with next := nextFieldsAfter e.next w }

/-! ## The rows -/

def execArm (s : State) : Host.Outcome State Fault Refusal := event s armNext

def execAbort (s : State) : Host.Outcome State Fault Refusal := event s abortBatch

def execPause (s : State) : Host.Outcome State Fault Refusal := event s pauseBatch

def execResume (s : State) : Host.Outcome State Fault Refusal := event s resumeBatch

def execArmRefusedClear (s : State) : Host.Outcome State Fault Refusal := event s clearArmRefused

def execNextFieldWrite (w : NextWrite) (s : State) : Host.Outcome State Fault Refusal :=
  event s (writeNext w)

def execReadCompletion (fetch : Nat) (data : RawReading) (s : State) :
    Host.Outcome State Fault Refusal :=
  event s (readCompletion fetch data)

def execFetchError (fetch : Nat) (s : State) : Host.Outcome State Fault Refusal :=
  event s (fetchError fetch)

def execFetchTimeout (s : State) : Host.Outcome State Fault Refusal := event s fetchTimeout

/-- BATCH_READING_COMPLETE: the reading's effects on its record, then the verdict write and the
advance unless a port reset has cut the batch short (R172, R178). Outside the carrying out of a
batch reading there is no such event, and nothing changes (log 2). -/
def completeReading (s : State) : State :=
  match s.unit.inProgress with
  | some (.reading data discarded) =>
    let g := carryReading s.unit data
    let s := { s with unit := { g.unit with inProgress := none } }.latchAttention g.attention
    if discarded then s else s.processReading g.verdict
  | _ => s

def execBatchReadingComplete (s : State) : Host.Outcome State Fault Refusal :=
  event s completeReading

end Sys2Proof.Machine
end

