-- ==== Sys2Proof/Machine/DayRequests.lean ====
section
/-! DEFINITION. CLOSE_DAY, REGION_POLL, SCAN_LINES, START_SURVEY and STOP_SURVEY as the Record Unit
carries them out, and the steps of the two walkers (chapters Surveillance States and the Business
Day, and Attention, Polling, Scanning and the Margin Survey). -/

namespace Sys2Proof.Machine

open Sys2Proof

/-! ## CLOSE_DAY (R96, R97) -/

/-- The content of a CLOSE_DAY response: business day, sweep running. -/
def closeDayReport (u : RecordUnit) : List Field := [u16 u.businessDay, flag u.sweep.running]

/-- The changes of an accepted CLOSE_DAY: the day, every closing mode, the sweep at slot 1 (R97). -/
def closeDay (u : RecordUnit) (day : Nat) : RecordUnit :=
  { u with
    businessDay := day
    regions := u.regions.map fun g => { g with closing := g.hold }
    sweep := ⟨true, 1⟩ }

/-- CLOSE_DAY carried out. -/
def carryCloseDay (u : RecordUnit) (day : Half) : Carried :=
  if day.toNat ≤ u.businessDay ∨ u.businessDay + 7 < day.toNat then
    answer u (.plain .badParameter (closeDayReport u))
  else if u.sweep.running then answer u (.plain .walkActive (closeDayReport u))
  else
    let u' := closeDay u day.toNat
    ⟨u', false, .plain .accepted (closeDayReport u')⟩

/-! ## REGION_POLL (R137) -/

/-- The region map: bit r shows whether region r's attention count is nonzero. -/
def regionMap (u : RecordUnit) : Nat :=
  regionNumbers.foldl
    (fun m r => m + if u.regions[r].attentionCount = 0 then 0 else 2 ^ r.val) 0

/-- REGION_POLL carried out. -/
def carryRegionPoll (u : RecordUnit) : Carried :=
  answer u (.plain .accepted
    (u64 (regionMap u) :: regionNumbers.map fun r => u16 u.regions[r].attentionCount))

/-! ## SCAN_LINES (R138 to R140) -/

/-- The range checks of R138. -/
def scanOutOfRange (a : ScanArgs) : Bool :=
  decide (a.start.toNat = 0) || decide (lastSlot < a.start.toNat) ||
    (decide (63 < a.region.toNat) && decide (a.region.toNat ≠ 0xFF)) ||
    decide (a.states.toNat = 0) || decide (31 < a.states.toNat) || decide (2 < a.minLevel.toNat) ||
    decide (a.maximum.toNat = 0) || decide (30 < a.maximum.toNat)

/-- The filter, every term (R140). -/
def scanMatches (a : ScanArgs) (r : LineRecord) : Bool :=
  (decide (a.region.toNat = 0xFF) || decide (a.region.toNat = r.region.val)) &&
    a.states.getLsbD r.state.code && decide (a.minLevel.toNat ≤ r.level.code) &&
    (!yes a.attentionOnly || r.attention) && (!yes a.marginalOnly || r.marginal)

/-- One match, 6 bytes: the slot, then site, line, state, level, attention and mark (R193). -/
def matchFields (r : LineRecord) : List Field :=
  let word := r.site % 2 ^ 20 + 2 ^ 20 * (r.lineNo % 8) + 2 ^ 23 * r.state.code +
    2 ^ 26 * r.level.code + 2 ^ 28 * r.attention.toNat + 2 ^ 29 * r.marginal.toNat
  [u16 r.slot, u16 (word % 65536), u16 (word / 65536)]

/-- What a scan has gathered: the Record Unit, any ATTENTION latch, the matches in slot order, the
number of records visited, and the slot at which the maximum stopped it, if it did. -/
structure Scan where
  unit : RecordUnit
  attention : Bool
  found : List LineRecord
  visited : Nat
  stoppedAt : Option Nat

/-- Visit the live records in slot order: catch up, test, append; stop at the maximum (R139). -/
def scanWalk (a : ScanArgs) : List LineRecord → Scan → Scan
  | [], acc => acc
  | r :: rest, acc =>
    let t := touch acc.unit r
    let hit := scanMatches a t.line
    let acc' : Scan :=
      { unit := t.commit
        attention := acc.attention || t.attention
        found := if hit then acc.found ++ [t.line] else acc.found
        visited := acc.visited + 1
        stoppedAt := none }
    if acc'.found.length = a.maximum.toNat then { acc' with stoppedAt := some r.slot }
    else scanWalk a rest acc'

/-- The resume slot: 0 when the walk passed slot 4095 or stopped there (R139). -/
def Scan.resume (acc : Scan) : Nat :=
  match acc.stoppedAt with
  | some slot => if slot = lastSlot then 0 else slot + 1
  | none => 0

/-- The content of a SCAN_LINES response (R193): number of matches at 8, END at 9, records visited at
10, resume slot at 12, and the matches from offset 16. -/
def Scan.fields (acc : Scan) : List Field :=
  [u8 acc.found.length, flag (acc.resume == 0), u16 acc.visited, u16 acc.resume, u16 0] ++
    (acc.found.map matchFields).flatten

/-- SCAN_LINES carried out (R138, R139). -/
def carryScanLines (u : RecordUnit) (a : ScanArgs) : Carried :=
  if scanOutOfRange a then answer u (.plain .badParameter [])
  else
    let acc := scanWalk a (u.records.filter fun r => decide (a.start.toNat ≤ r.slot))
      ⟨u, false, [], 0, none⟩
    ⟨acc.unit, acc.attention, .plain .accepted acc.fields⟩

/-! ## START_SURVEY and STOP_SURVEY (R143, R147) -/

/-- The survey state and result, as both responses report them (R142). -/
def surveyReport (v : Survey) : List Field :=
  [u8 v.state.code, u8 v.margin, u16 v.visited, u16 v.marked, u16 v.firstMarked]

/-- START_SURVEY carried out (R143). -/
def carryStartSurvey (u : RecordUnit) (margin : Byte) : Carried :=
  if margin.toNat < 50 ∨ 99 < margin.toNat then
    answer u (.plain .badParameter (surveyReport u.survey))
  else if u.survey.state = .running then answer u (.plain .walkActive (surveyReport u.survey))
  else
    let v : Survey := ⟨.running, margin.toNat, 1, 0, 0, 0⟩
    ⟨{ u with survey := v }, false, .plain .accepted (surveyReport v)⟩

/-- STOP_SURVEY carried out (R147): the waiting step is withdrawn and its count returns to 0. -/
def carryStopSurvey (u : RecordUnit) : Carried :=
  if u.survey.state = .running then
    let v : Survey := { u.survey with state := .stopped, pointer := 0 }
    ⟨{ u with survey := v, arbiter := { u.arbiter with surveyCount := 0 } }, false,
      .plain .accepted (surveyReport v)⟩
  else answer u (.plain .badState (surveyReport u.survey))

/-! ## Walker steps (R112, R144) -/

/-- What a walker step gives: the Record Unit, any ATTENTION latch, whether the walk ended. -/
structure Walked where
  unit : RecordUnit
  attention : Bool
  ended : Bool

/-- A Day-Close Sweep step (R112): pass over free slots, catch one live record up, advance the
pointer, and end the walk past slot 4095. -/
def sweepWalk (u : RecordUnit) : Walked :=
  match u.nextLive u.sweep.pointer with
  | none => ⟨{ u with sweep := ⟨false, 0⟩ }, false, true⟩
  | some r =>
    let t := touch u r
    let u' := t.commit
    if r.slot + 1 > lastSlot then ⟨{ u' with sweep := ⟨false, 0⟩ }, t.attention, true⟩
    else ⟨{ u' with sweep := { u.sweep with pointer := r.slot + 1 } }, t.attention, false⟩

/-- The survey's result after a visit (R144). -/
def Survey.visit (v : Survey) (slot : Nat) (marked : Bool) : Survey :=
  { v with
    visited := v.visited + 1
    marked := if marked then v.marked + 1 else v.marked
    firstMarked := if marked && v.firstMarked == 0 then slot else v.firstMarked
    pointer := slot + 1 }

/-- The survey after its walk has ended (R144). -/
def Survey.finish (v : Survey) : Survey := { v with state := .done, pointer := 0 }

/-- A Margin Survey step (R144): pass over free slots, catch one live record up, set or clear its
mark by R145, update the result, and end the walk past slot 4095. -/
def surveyWalk (u : RecordUnit) : Walked :=
  match u.nextLive u.survey.pointer with
  | none => ⟨{ u with survey := u.survey.finish }, false, true⟩
  | some r =>
    let t := touch u r
    let marked := marginalTest t.profile u.survey.margin t.line
    let u' := (t.mapLine fun r => { r with marginal := marked }).commit
    let v := u.survey.visit r.slot marked
    if r.slot + 1 > lastSlot then ⟨{ u' with survey := v.finish }, t.attention, true⟩
    else ⟨{ u' with survey := v }, t.attention, false⟩

end Sys2Proof.Machine
end

