-- ==== Sys2Proof/Machine/Arbiter.lean ====
section
/-! DEFINITION. The Record Unit arbiter (R14, R15) and the granted steps of the two walkers. -/

namespace Sys2Proof.Machine

open Sys2Proof

/-- A client of the Record Unit (R14). -/
inductive Client where
  | commandPort
  | batchEngine
  | sweep
  | survey
  deriving DecidableEq, Repr

/-- The request the Command Port has presented, if one waits. -/
def State.waitingRequest (s : State) : Option UnitRequest :=
  match s.port.phase with
  | .waiting req => some req
  | _ => none

/-- The reading the Batch Engine has presented, if one waits. A reading submitted while one of before
a port reset is still being carried out waits from its submission, and so competes at the grant that
follows that completion (R178; log 29). -/
def State.waitingReading (s : State) : Option RawReading :=
  match s.engine.flight with
  | some (.submitted data) => some data
  | _ => none

/-- Whether the sweep waits: it presents its next step while it runs (R112). -/
def RecordUnit.sweepWaits (u : RecordUnit) : Bool := u.sweep.running

/-- Whether the survey waits (R144). -/
def RecordUnit.surveyWaits (u : RecordUnit) : Bool := decide (u.survey.state = .running)

/-- Of the background clients that ask, the one to grant: of two, the one not granted most
recently (R15). -/
def pickBackground (last : Background) (sweep survey : Bool) : Option Client :=
  if sweep && survey then
    match last with
    | .sweep => some .survey
    | .survey => some .sweep
  else if sweep then some .sweep
  else if survey then some .survey
  else none

/-- Of the foreground clients that wait, the one to grant (R15). -/
def pickForeground (last : Foreground) (port engine : Bool) : Option Client :=
  if port && engine then
    match last with
    | .commandPort => some .batchEngine
    | .batchEngine => some .commandPort
  else if port then some .commandPort
  else if engine then some .batchEngine
  else none

/-- The choice of R15: an owed background client, else a foreground client, else a background
client. -/
def chooseClient (a : Arbiter) (port engine sweep survey : Bool) : Option Client :=
  (pickBackground a.lastBackground (sweep && decide (8 ≤ a.sweepCount))
      (survey && decide (8 ≤ a.surveyCount))).or
    ((pickForeground a.lastForeground port engine).or
      (pickBackground a.lastBackground sweep survey))

/-- A count of foreground grants seen while waiting, up to 8 (R15). -/
def countGrant (waits : Bool) (count : Nat) : Nat := if waits then min 8 (count + 1) else count

/-- The arbiter after a foreground grant (R15). -/
def Arbiter.afterForeground (a : Arbiter) (client : Foreground) (sweep survey : Bool) : Arbiter :=
  { a with
    sweepCount := countGrant sweep a.sweepCount
    surveyCount := countGrant survey a.surveyCount
    lastForeground := client }

/-- The client that the arbiter would grant next. -/
def State.nextClient (s : State) : Option Client :=
  chooseClient s.unit.arbiter s.waitingRequest.isSome s.waitingReading.isSome s.unit.sweepWaits
    s.unit.surveyWaits

/-- The Record Unit with a request granted. -/
def RecordUnit.start (u : RecordUnit) (g : Grant) (a : Arbiter) : RecordUnit :=
  { u with inProgress := some g, arbiter := a }

/-- RECORD_UNIT_GRANT (R15): when the Record Unit is free and a client waits, one request is granted.
When it is not free or none waits there is no grant (log 2); none is made while INITIALISING
(R16). -/
def grant (s : State) : State :=
  if s.readiness = .initialising ∨ s.unit.inProgress.isSome then s
  else
    let u := s.unit
    let fg (c : Foreground) := u.arbiter.afterForeground c u.sweepWaits u.surveyWaits
    match s.nextClient, s.waitingRequest, s.waitingReading with
    | some .commandPort, some req, _ =>
      { s with
        unit := u.start (.command req false) (fg .commandPort)
        port := { s.port with phase := .granted } }
    | some .batchEngine, _, some data =>
      { s with
        unit := u.start (.reading data false) (fg .batchEngine)
        engine := { s.engine with flight := some .granted } }
    | some .sweep, _, _ =>
      { s with
        unit := u.start .sweepStep { u.arbiter with sweepCount := 0, lastBackground := .sweep } }
    | some .survey, _, _ =>
      { s with
        unit := u.start .surveyStep { u.arbiter with surveyCount := 0, lastBackground := .survey } }
    | _, _, _ => s

def execRecordUnitGrant (s : State) : Host.Outcome State Fault Refusal := event s grant

/-- A walker step carried out: its effects, an ATTENTION latch, and its source at the end of the
walk. -/
def finishWalk (w : Walked) (src : Source) (s : State) : State :=
  let s := { s with unit := { w.unit with inProgress := none } }.latchAttention w.attention
  if w.ended then s.latch src else s

/-- SWEEP_STEP (R112): the granted step of the Day-Close Sweep. With none granted there is no step
(log 2). -/
def sweepStep (s : State) : State :=
  match s.unit.inProgress with
  | some .sweepStep => finishWalk (sweepWalk s.unit) .sweepDone s
  | _ => s

def execSweepStep (s : State) : Host.Outcome State Fault Refusal := event s sweepStep

/-- SURVEY_STEP (R144): the granted step of the Margin Survey. With none granted there is no step
(log 2). -/
def surveyStep (s : State) : State :=
  match s.unit.inProgress with
  | some .surveyStep => finishWalk (surveyWalk s.unit) .surveyDone s
  | _ => s

def execSurveyStep (s : State) : Host.Outcome State Fault Refusal := event s surveyStep

end Sys2Proof.Machine
end

