-- ==== Sys2Proof/Machine/RecordRequests.lean ====
section
/-! DEFINITION. The requests on line records as the Record Unit carries them out: CREATE_LINE,
READ_LINE, RETIRE_LINE, MOVE_LINE, SET_LINE_PROFILE, SET_AIMS, SET_LINE_LOT, START_CROSSOVER,
CANCEL_CROSSOVER, ACKNOWLEDGE, CLEAR_DRIFT, REINSTATE. -/

namespace Sys2Proof.Machine

open Sys2Proof

/-! ## CREATE_LINE (R19, R20) -/

/-- The record of a new line (R20). -/
def newRecord (slot site lineNo : Nat) (region : Fin 64) (kind : ProcessKind) (profile : Fin 32)
    (day : Nat) (lot : Option (Fin 64)) : LineRecord :=
  { slot := slot, site := site, lineNo := lineNo, region := region, kind := kind,
    profile := profile, version := 0, creationDay := day, state := .new, closedDay := day,
    countdown := 0, missed := 0, lastReading := none, readingCount := 0, lot := lot,
    crossover := none, aims := none, baseline := none, stats := startStats, level := .ok,
    ackLevel := .ok, lapseEvent := false, mismatchEvent := false, attention := false,
    marginal := false, snapshot := none }

/-- The lot checks of CREATE_LINE (R19, checks 6 to 8); lot code 0 stands for no lot. -/
def createLot (u : RecordUnit) (kind : ProcessKind) (code : Word) :
    Except Status (Option (Fin 64)) :=
  if code = 0 then .ok none
  else
    match u.findLot code with
    | none => .error .unknownLot
    | some i =>
      if u.lots[i].state = .withdrawn then .error .lotWithdrawn
      else if u.lots[i].kind ≠ some kind then .error .wrongKind
      else .ok (some i)

/-- The changes of an accepted CREATE_LINE (R11, R20), once a slot has been taken from the ring. -/
def createRecord (u : RecordUnit) (r : LineRecord) : RecordUnit :=
  let u := { u with records := insertRecord r u.records }
  let u := u.linkSlot r.site r.lineNo r.slot
  let u := addLive (addProfileUse u r.profile) r.region
  match r.lot with
  | none => u
  | some i => addCurrentUser u i

/-- CREATE_LINE carried out (R19, R20). -/
def carryCreateLine (u : RecordUnit) (a : CreateArgs) : Carried :=
  let refuse (status : Status) : Carried := answer u (.plain status [])
  if keyOutOfRange a.site a.line then refuse .badParameter
  else if hr : a.region.toNat < 64 then
    match kindOfCode a.kind.toNat with
    | none => refuse .badParameter
    | some kind =>
      if hp : a.profile.toNat < 32 then
        let region : Fin 64 := ⟨a.region.toNat, hr⟩
        let profile : Fin 32 := ⟨a.profile.toNat, hp⟩
        if (u.lookup a.site.toNat a.line.toNat).isSome then refuse .exists
        else
          match u.takeSlot with
          | none => refuse .tableFull
          | some (slot, u') =>
            if u.profiles[profile].kind = none then refuse .noProfile
            else if u.profiles[profile].kind ≠ some kind then refuse .wrongKind
            else
              match createLot u kind a.lot with
              | .error status => refuse status
              | .ok lot =>
                let r := newRecord slot a.site.toNat a.line.toNat region kind profile
                  u.businessDay lot
                ⟨createRecord u' r, false, ⟨.accepted, slot, 0, []⟩⟩
      else refuse .badParameter
  else refuse .badParameter

/-! ## READ_LINE (R21) -/

/-- READ_LINE carried out: catch-up and the record image. -/
def carryReadLine (u : RecordUnit) (h : Header) (a : KeyArgs) : Carried :=
  onLine u h a.site a.line false false []
    (fun t => imageFields t.unit.lots t.line) fun t => .accepted t

/-! ## RETIRE_LINE (R22) -/

/-- The count changes of an accepted RETIRE_LINE (R22). -/
def retireCounts (u : RecordUnit) (r : LineRecord) : RecordUnit :=
  let u := dropLive (dropProfileUse u r.profile) r.region
  let u := if r.attention then dropAttention u r.region else u
  let u := match r.lot with
    | none => u
    | some i => dropCurrentUser u i
  match r.crossover with
  | none => u
  | some x => dropIncomingUser u x.incoming

/-- The changes of an accepted RETIRE_LINE: counts, chain, ring, and the slot cleared (R22). -/
def retireRecord (u : RecordUnit) (r : LineRecord) : RecordUnit :=
  let u := (retireCounts u r).unlinkSlot r.site r.lineNo r.slot
  (u.returnSlot r.slot).dropRecord r.slot

/-- RETIRE_LINE carried out. Its response has no content, so neither state nor attention (R157 and the
catalogue of 8.7 against R92 and R133; log 28). -/
def carryRetireLine (u : RecordUnit) (h : Header) (a : KeyArgs) : Carried :=
  onLine u h a.site a.line false true [] (fun _ => [])
    fun t => .retired t (retireRecord t.unit t.line)

/-! ## MOVE_LINE (R23, R162) -/

/-- The region counts moved from one region to another, with the passage of the new region's
attention count from 0 (R23, R134). -/
def Touch.moveRegion (t : Touch) (region : Fin 64) : Touch :=
  if region = t.line.region then t
  else
    let old := t.line.region
    let u := addLive (dropLive t.unit old) region
    if t.line.attention then
      { line := { t.line with region := region }
        unit := addAttention (dropAttention u old) region
        attention := t.attention || attentionAtZero u region }
    else { line := { t.line with region := region }, unit := u, attention := t.attention }

/-- The content of a MOVE_LINE response (R162), without state or attention (log 28). -/
def moveReport (t : Touch) : List Field :=
  [u8 t.line.region.val, u16 t.region.liveCount, u16 t.region.attentionCount]

/-- MOVE_LINE carried out. -/
def carryMoveLine (u : RecordUnit) (h : Header) (a : MoveArgs) : Carried :=
  if hr : a.region.toNat < 64 then
    onLine u h a.site a.line false true [] moveReport
      fun t => .accepted (t.moveRegion ⟨a.region.toNat, hr⟩).bumpVersion
  else answer u (.plain .badParameter [])

/-! ## SET_LINE_PROFILE (R24, R162) -/

/-- The profile number and the use counts moved (R24, R27). -/
def Touch.moveProfile (t : Touch) (profile : Fin 32) : Touch :=
  if profile = t.line.profile then t
  else
    { t with
      line := { t.line with profile := profile }
      unit := addProfileUse (dropProfileUse t.unit t.line.profile) profile }

/-- The content of a SET_LINE_PROFILE response (R162), without state or attention (log 28). -/
def lineProfileReport (t : Touch) : List Field :=
  [u8 t.line.profile.val, u16 t.profile.useCount]

/-- SET_LINE_PROFILE carried out. -/
def carrySetLineProfile (u : RecordUnit) (h : Header) (a : LineProfileArgs) : Carried :=
  if hp : a.profile.toNat < 32 then
    let profile : Fin 32 := ⟨a.profile.toNat, hp⟩
    onLine u h a.site a.line false true [] lineProfileReport fun t =>
      if t.unit.profiles[profile].kind = none then .refused .noProfile
      else if t.unit.profiles[profile].kind ≠ some t.line.kind then .refused .wrongKind
      else .accepted (t.moveProfile profile).bumpVersion
  else answer u (.plain .badParameter [])

/-! ## SET_AIMS (R86, R87) -/

/-- State, level, acknowledged level and attention: the content several responses begin with. -/
def levelReport (t : Touch) : List Field :=
  [u8 t.line.state.code, u8 t.line.level.code, u8 t.line.ackLevel.code, flag t.line.attention]

/-- The aims of a request as signed values. -/
def aimsOf (v : Vector Half 12) : Points Int := build12 fun i => v[i].toInt

/-- Check 1 of SET_AIMS: some aim outside −5,500 to +5,500. -/
def aimsOutOfRange (v : Vector Half 12) : Bool :=
  points.any fun i => decide (v[i].toInt < -5500) || decide (5500 < v[i].toInt)

/-- Check 5 of SET_AIMS: for a MONO record, some red or blue aim not 0. -/
def strayEntries (kind : ProcessKind) (v : Vector Half 12) : Bool :=
  points.any fun i => !isPoint kind i && v[i] != 0

/-- The changes of an accepted SET_AIMS but for the version and attention (R87). -/
def LineRecord.loadAims (r : LineRecord) (interval : Nat) (aims : Points Int) : LineRecord :=
  let fresh := decide (r.state = .new) || decide (r.state = .baseline)
  { r.resetStats with
    aims := some aims
    baseline := none
    snapshot := none
    state := if fresh then .active else r.state
    countdown := if fresh then interval else r.countdown
    missed := if fresh then 0 else r.missed }

/-- SET_AIMS carried out. -/
def carrySetAims (u : RecordUnit) (h : Header) (a : AimsArgs) : Carried :=
  onLine u h a.site a.line (aimsOutOfRange a.aims) true [] levelReport fun t =>
    if strayEntries t.line.kind a.aims then .refused .badParameter
    else if t.line.state = .lapsed ∨ t.line.state = .reinstating then .refused .badState
    else if t.line.state = .new ∧ t.line.lot = none then .refused .badState
    else
      .accepted (t.mapLine
        (·.loadAims t.profile.stripInterval (aimsOf a.aims))).bumpVersion.recomputeAttention

/-! ## SET_LINE_LOT (R130, R131) -/

/-- The content of a SET_LINE_LOT response: state, and entry and code of the current lot, 0xFF and 0
for none (R193); without attention (log 28). -/
def lotReport (t : Touch) : List Field :=
  [u8 t.line.state.code, u8 (t.line.lot.elim 0xFF (·.val)), u32 (lotCodeOf t.unit.lots t.line.lot)]

/-- The content of a SET_LINE_LOT response that found no record (R193). -/
def noLotContent : List Field := [u8 0, u8 0xFF, u32 0]

/-- The current-user counts moved to a lot (R37, R131). -/
def Touch.moveLotCounts (t : Touch) (lot : Fin 64) : Touch :=
  match t.line.lot with
  | none => t.mapUnit (addCurrentUser · lot)
  | some old =>
    if old = lot then t else t.mapUnit fun u => addCurrentUser (dropCurrentUser u old) lot

/-- The record changes of an accepted SET_LINE_LOT but for the version (R131). -/
def LineRecord.setLot (r : LineRecord) (lot : Fin 64) : LineRecord :=
  { r with
    lot := some lot
    snapshot := none
    state := if r.state = .baseline then .new else r.state
    baseline := if r.state = .baseline then none else r.baseline }

/-- SET_LINE_LOT carried out. -/
def carrySetLineLot (u : RecordUnit) (h : Header) (a : LineLotArgs) : Carried :=
  onLine u h a.site a.line (decide (a.lot = 0)) true noLotContent lotReport fun t =>
    if t.line.crossover.isSome then .refused .crossoverOpen
    else
      match t.unit.findLot a.lot with
      | none => .refused .unknownLot
      | some lot =>
        if t.unit.lots[lot].state = .withdrawn then .refused .lotWithdrawn
        else if t.unit.lots[lot].kind ≠ some t.line.kind then .refused .wrongKind
        else .accepted ((t.moveLotCounts lot).mapLine (·.setLot lot)).bumpVersion

/-! ## START_CROSSOVER and CANCEL_CROSSOVER (R117, R118, R127) -/

/-- State and crossover progress, without attention (log 28). -/
def crossoverReport (t : Touch) : List Field :=
  [u8 t.line.state.code, u8 t.line.progress.1, u8 t.line.progress.2]

/-- The crossover part opened (R118). -/
def LineRecord.openCrossover (r : LineRecord) (lot : Fin 64) (required : Nat) : LineRecord :=
  { r with
    crossover := some ⟨lot, required, 0, Vector.replicate 12 0, none⟩
    snapshot := none }

/-- START_CROSSOVER carried out. -/
def carryStartCrossover (u : RecordUnit) (h : Header) (a : LineLotArgs) : Carried :=
  onLine u h a.site a.line (decide (a.lot = 0)) true [] crossoverReport fun t =>
    if t.line.state ≠ .active then .refused .badState
    else if t.line.crossover.isSome then .refused .crossoverOpen
    else
      match t.unit.findLot a.lot with
      | none => .refused .unknownLot
      | some lot =>
        if t.unit.lots[lot].state = .withdrawn then .refused .lotWithdrawn
        else if t.unit.lots[lot].kind ≠ some t.line.kind then .refused .wrongKind
        else if t.line.lot = some lot then .refused .badParameter
        else
          .accepted ((t.mapLine (·.openCrossover lot t.profile.crossoverPairs)).mapUnit
            (addIncomingUser · lot)).bumpVersion

/-- CANCEL_CROSSOVER carried out. -/
def carryCancelCrossover (u : RecordUnit) (h : Header) (a : KeyArgs) : Carried :=
  onLine u h a.site a.line false true [] crossoverReport fun t =>
    match t.line.crossover with
    | none => .refused .badState
    | some x =>
      .accepted ((t.mapLine fun r => { r with crossover := none }).mapUnit
        (dropIncomingUser · x.incoming)).bumpVersion

/-! ## ACKNOWLEDGE (R135) -/

/-- The level acknowledged and the events emptied. -/
def LineRecord.acknowledged (r : LineRecord) : LineRecord :=
  { r with ackLevel := r.level, lapseEvent := false, mismatchEvent := false }

/-- ACKNOWLEDGE carried out. -/
def carryAcknowledge (u : RecordUnit) (h : Header) (a : KeyArgs) : Carried :=
  onLine u h a.site a.line false true []
    (fun t => levelReport t ++ [u16 t.region.attentionCount]) fun t =>
    .accepted (t.mapLine LineRecord.acknowledged).bumpVersion.recomputeAttention

/-! ## CLEAR_DRIFT (R89, R90) -/

/-- Sums, runs and flags after CLEAR_DRIFT, with the level derived anew and the snapshot dropped. -/
def LineRecord.clearDrift (r : LineRecord) (pr : Profile) : LineRecord :=
  { { r with stats := mapStats r.kind (fun i p => clearPoint (limitsOf pr i) p) r.stats }.settleLevel
    with snapshot := none }

/-- CLEAR_DRIFT carried out. -/
def carryClearDrift (u : RecordUnit) (h : Header) (a : KeyArgs) : Carried :=
  onLine u h a.site a.line false true [] levelReport fun t =>
    if t.line.state ≠ .active then .refused .badState
    else .accepted (t.mapLine (·.clearDrift t.profile)).bumpVersion.recomputeAttention

/-! ## REINSTATE (R107, R108) -/

/-- REINSTATE carried out. -/
def carryReinstate (u : RecordUnit) (h : Header) (a : KeyArgs) : Carried :=
  onLine u h a.site a.line false true []
    (fun t => levelReport t ++ [u8 t.line.countdown, u8 t.line.missed]) fun t =>
    if t.line.state ≠ .lapsed then .refused .badState
    else
      .accepted (t.mapLine fun r =>
        { r with state := .reinstating, countdown := t.profile.stripInterval, missed := 0 }).bumpVersion

end Sys2Proof.Machine
end

