-- ==== Sys2Proof/Machine/TableRequests.lean ====
section
/-! DEFINITION. The requests on the Profile, Lot and Region Tables as the Record Unit carries them
out (chapter Control Profiles, Strip Lots and Regions). -/

namespace Sys2Proof.Machine

open Sys2Proof

/-! ## Profiles (R28, R29, R33, R34) -/

/-- Whether a value lies in an inclusive range. -/
def within (low high value : Nat) : Bool := decide (low ≤ value) && decide (value ≤ high)

/-- The per-quantity ranges of R26, an A below its W included. -/
def limitsInRange (l : LimitArgs) : Bool :=
  within 1 2000 l.w.toNat && within l.w.toNat 2000 l.a.toNat && within 0 500 l.k.toNat &&
    within 1 5000 l.h.toNat && within 1 500 l.tolerance.toNat

/-- Every parameter in its range of R26. -/
def profileInRange (a : WriteProfileArgs) : Bool :=
  within 3 15 a.runLimit.toNat && within 1 8 a.baselineCount.toNat &&
    within 1 7 a.stripInterval.toNat && within 1 15 a.lapseLimit.toNat &&
    within 1 5 a.crossoverPairs.toNat && a.limits.toList.all limitsInRange

/-- A group of limits as stored. -/
def limitsFrom (l : LimitArgs) : Limits :=
  ⟨l.w.toNat, l.a.toNat, l.k.toNat, l.h.toNat, l.tolerance.toNat⟩

/-- The entry a write leaves: the kind and parameters of the request, or an UNSET entry for NONE,
with the use count as it was (R28, R29). -/
def writtenProfile (kind : Option ProcessKind) (a : WriteProfileArgs) (useCount : Nat) : Profile :=
  match kind with
  | none => { Profile.unset with useCount := useCount }
  | some k =>
    { kind := some k
      runLimit := a.runLimit.toNat
      baselineCount := a.baselineCount.toNat
      stripInterval := a.stripInterval.toNat
      lapseLimit := a.lapseLimit.toNat
      crossoverPairs := a.crossoverPairs.toNat
      limits := a.limits.map limitsFrom
      useCount := useCount }

/-- The content of a WRITE_PROFILE response: profile number, and the entry's kind and use count as
they stand (R28, R29). -/
def writeProfileReport (number : Nat) (p : Profile) : List Field :=
  [u8 number, u8 (kindCode p.kind), u16 p.useCount]

/-- WRITE_PROFILE carried out, past the gate (R28, R29). A number above 31 names no entry: its
response repeats the number with kind and count 0 (log 12). -/
def carryWriteProfile (u : RecordUnit) (a : WriteProfileArgs) : Carried :=
  let number := a.profile.toNat
  if hp : number < 32 then
    let i : Fin 32 := ⟨number, hp⟩
    let entry := u.profiles[i]
    let refuse (status : Status) : Carried :=
      answer u (.plain status (writeProfileReport number entry))
    let kind := kindOfCode a.kind.toNat
    if 3 < a.kind.toNat then refuse .badParameter
    else if kind.isSome && !profileInRange a then refuse .badParameter
    else if u.freeze then refuse .locked
    else if 0 < entry.useCount ∧ kind ≠ entry.kind then refuse .inUse
    else
      let p := writtenProfile kind a entry.useCount
      ⟨u.modifyProfile i fun _ => p, false, .plain .accepted (writeProfileReport number p)⟩
  else answer u (.plain .badParameter (writeProfileReport number Profile.unset))

/-- The parameters of one quantity, as reported. -/
def limitsReport (l : Limits) : List Field := [u16 l.w, u16 l.a, u16 l.k, u16 l.h, u16 l.tolerance]

/-- The content of a READ_PROFILE response: number, kind, every parameter, use count, and the freeze
(R33); 'every parameter' stands in the order of WRITE_PROFILE (log 32). -/
def readProfileReport (number : Nat) (p : Profile) (freeze : Bool) : List Field :=
  [u8 number, u8 (kindCode p.kind), u8 p.runLimit, u8 p.baselineCount, u8 p.stripInterval,
    u8 p.lapseLimit, u8 p.crossoverPairs] ++
    limitsReport p.limits[0] ++ limitsReport p.limits[1] ++ limitsReport p.limits[2] ++
    limitsReport p.limits[3] ++ [u16 p.useCount, flag freeze]

/-- READ_PROFILE carried out (R33). A number above 31 names no entry, whose fields are then 0 (R157;
log 12 on the number); the freeze is reported in every READ_PROFILE response (R34). -/
def carryReadProfile (u : RecordUnit) (profile : Byte) : Carried :=
  if hp : profile.toNat < 32 then
    answer u (.plain .accepted
      (readProfileReport profile.toNat u.profiles[(⟨profile.toNat, hp⟩ : Fin 32)] u.freeze))
  else answer u (.plain .badParameter (readProfileReport 0 Profile.unset u.freeze))

/-- FREEZE_PROFILES carried out, past the gate (R34). -/
def carryFreezeProfiles (u : RecordUnit) : Carried :=
  ⟨{ u with freeze := true }, false, .plain .accepted [flag true]⟩

/-! ## Lots (R38 to R41) -/

/-- Check 1 of ADD_LOT on the offsets: −500 to +500 (R38). -/
def offsetsInRange (v : Vector Half 12) : Bool :=
  points.all fun i => decide (-500 ≤ v[i].toInt) && decide (v[i].toInt ≤ 500)

/-- For a MONO lot, 0 in every red and blue position (R38). -/
def offsetsFitKind (kind : ProcessKind) (v : Vector Half 12) : Bool :=
  points.all fun i => isPoint kind i || v[i] == 0

/-- The entry and code of a lot. -/
def lotIdReport (u : RecordUnit) (i : Fin 64) : List Field := [u8 i.val, u32 u.lots[i].code.toNat]

/-- ADD_LOT carried out, past the gate (R38). An EXISTS refusal found an entry and reports it (R157;
log 11). -/
def carryAddLot (u : RecordUnit) (a : AddLotArgs) : Carried :=
  match kindOfCode a.kind.toNat with
  | none => answer u (.plain .badParameter [])
  | some kind =>
    if a.lot = 0 ∨ !offsetsInRange a.offsets ∨ !offsetsFitKind kind a.offsets then
      answer u (.plain .badParameter [])
    else
      match u.findLot a.lot with
      | some i => answer u (.plain .exists (lotIdReport u i))
      | none =>
        match u.firstFreeLot with
        | none => answer u (.plain .tableFull [])
        | some i =>
          let lot : Lot :=
            { state := .opened, code := a.lot, kind := some kind,
              offsets := build12 fun j => a.offsets[j].toInt, currentUsers := 0, incomingUsers := 0 }
          ⟨u.modifyLot i fun _ => lot, false, .plain .accepted [u8 i.val, u32 a.lot.toNat]⟩

/-- The whole of a Lot Table entry, as READ_LOT reports it (R41). -/
def lotReportFields (u : RecordUnit) (i : Fin 64) : List Field :=
  let l := u.lots[i]
  [u8 i.val, u8 l.state.code, u32 l.code.toNat, u8 (kindCode l.kind)] ++
    (points.map fun j => s16 l.offsets[j]) ++ [u16 l.currentUsers, u16 l.incomingUsers]

/-- READ_LOT carried out: by code, or by entry number when the code is 0 (R41). -/
def carryReadLot (u : RecordUnit) (a : ReadLotArgs) : Carried :=
  if a.lot ≠ 0 then
    match u.findLot a.lot with
    | none => answer u (.plain .unknownLot [])
    | some i => answer u (.plain .accepted (lotReportFields u i))
  else if he : a.entry.toNat < 64 then
    answer u (.plain .accepted (lotReportFields u ⟨a.entry.toNat, he⟩))
  else answer u (.plain .badParameter [])

/-- WITHDRAW_LOT carried out, past the gate (R39). -/
def carryWithdrawLot (u : RecordUnit) (code : Word) : Carried :=
  if code = 0 then answer u (.plain .badParameter [])
  else
    match u.findLot code with
    | none => answer u (.plain .unknownLot [])
    | some i =>
      ⟨u.modifyLot i fun l => { l with state := .withdrawn }, false,
        .plain .accepted [u8 i.val, u8 LotState.withdrawn.code]⟩

/-- REMOVE_LOT carried out, past the gate (R40). -/
def carryRemoveLot (u : RecordUnit) (code : Word) : Carried :=
  if code = 0 then answer u (.plain .badParameter [])
  else
    match u.findLot code with
    | none => answer u (.plain .unknownLot [])
    | some i =>
      if 0 < u.lots[i].currentUsers ∨ 0 < u.lots[i].incomingUsers then
        answer u (.plain .inUse [u8 i.val])
      else ⟨u.modifyLot i fun _ => Lot.vacant, false, .plain .accepted [u8 i.val]⟩

/-! ## Regions (R44, R45) -/

/-- SET_REGION_HOLD carried out (R44). -/
def carrySetRegionHold (u : RecordUnit) (a : RegionHoldArgs) : Carried :=
  if hr : a.region.toNat < 64 then
    match holdOfCode a.mode.toNat with
    | none => answer u (.plain .badParameter [])
    | some mode =>
      let i : Fin 64 := ⟨a.region.toNat, hr⟩
      ⟨u.modifyRegion i fun g => { g with hold := mode }, false,
        .plain .accepted [u8 i.val, u8 mode.code, u8 u.regions[i].closing.code]⟩
  else answer u (.plain .badParameter [])

/-- READ_REGION carried out (R45). -/
def carryReadRegion (u : RecordUnit) (region : Byte) : Carried :=
  if hr : region.toNat < 64 then
    let g := u.regions[(⟨region.toNat, hr⟩ : Fin 64)]
    answer u (.plain .accepted
      [u8 region.toNat, u8 g.hold.code, u8 g.closing.code, u16 g.liveCount, u16 g.attentionCount])
  else answer u (.plain .badParameter [])

end Sys2Proof.Machine
end

