-- ==== Sys2Proof/Machine/CommandPort.lean ====
section
/-! DEFINITION. The Command Port (chapter Command Port): taking a request, the requests the port
answers itself, the configuration gate, the response, and the meaning of every request row: the host
places the request in the request block and writes GO (log 1). -/

namespace Sys2Proof.Machine

open Sys2Proof

/-! ## Carrying a request out -/

/-- A request carried out by the Record Unit, by its owning rule. -/
def carryOut (u : RecordUnit) (req : UnitRequest) : Carried :=
  match req.op with
  | .createLine a => carryCreateLine u a
  | .readLine a => carryReadLine u req.header a
  | .retireLine a => carryRetireLine u req.header a
  | .moveLine a => carryMoveLine u req.header a
  | .setLineProfile a => carrySetLineProfile u req.header a
  | .setAims a => carrySetAims u req.header a
  | .setLineLot a => carrySetLineLot u req.header a
  | .startCrossover a => carryStartCrossover u req.header a
  | .cancelCrossover a => carryCancelCrossover u req.header a
  | .acknowledge a => carryAcknowledge u req.header a
  | .clearDrift a => carryClearDrift u req.header a
  | .reinstate a => carryReinstate u req.header a
  | .submitReading a => carrySubmitReading u a
  | .writeProfile a => carryWriteProfile u a
  | .readProfile profile => carryReadProfile u profile
  | .freezeProfiles => carryFreezeProfiles u
  | .addLot a => carryAddLot u a
  | .readLot a => carryReadLot u a
  | .withdrawLot lot => carryWithdrawLot u lot
  | .removeLot lot => carryRemoveLot u lot
  | .setRegionHold a => carrySetRegionHold u a
  | .readRegion region => carryReadRegion u region
  | .closeDay day => carryCloseDay u day
  | .regionPoll => carryRegionPoll u
  | .scanLines a => carryScanLines u a
  | .startSurvey margin => carryStartSurvey u margin
  | .stopSurvey => carryStopSurvey u

/-! ## Taking a request (R150) -/

/-- The gated requests (R25). -/
def isGated : UnitOp → Bool
  | .writeProfile _ => true
  | .freezeProfiles => true
  | .addLot _ => true
  | .withdrawLot _ => true
  | .removeLot _ => true
  | _ => false

/-- The content of a request answered NOT_READY or CONFIG_CLOSED at the port: 0 throughout, but for
the entry of a SET_LINE_LOT (R193) and the verdict of a SUBMIT_READING, which echoes host tag and key
and carries the status (R65); the record's fields are 0 (R157; log 13). -/
def portRefusal : PortOp → List Field
  | .unit (.setLineLot _) => noLotContent
  | .unit (.submitReading raw) => (Verdict.noRecord (parseReading raw) .notReady).fields
  | _ => []

/-- A request completes: the whole response is written, the port returns to IDLE, DONE is set, and
COMMAND_DONE is latched (R152). -/
def respond (code : Byte) (tag : Half) (r : Reply) (s : State) : State :=
  { s with
    port := { s.port with
      phase := .idle, done := true, responseBlock := responseOf code tag r } }.latch .commandDone

/-- The gate and the status after OPEN_CONFIG (R158). -/
def gateAfterKey (g : Gate) (key : Half) : Gate × Status :=
  match g with
  | .key1Seen => if key = key2 then (.opened, .accepted) else (.closed, .keyRejected)
  | _ => if key = key1 then (.key1Seen, .accepted) else (.closed, .keyRejected)

/-- A gate in KEY1_SEEN returned to CLOSED by any other request (R158). -/
def gateAfterOther : Gate → Gate
  | .key1Seen => .closed
  | .closed => .closed
  | .opened => .opened

/-- Why the port refuses a request bound for the Record Unit, with the gate as step 5 left it
(R150 steps 6 and 7), and the response; none when it is presented. -/
def portRefuses (g : Gate) (op : UnitOp) : Option Reply :=
  if isGated op && g != .opened then some (.plain .configClosed (portRefusal (.unit op)))
  else
    match op with
    | .submitReading raw =>
      if checkPasses raw then none
      else some (.plain .badCheck (Verdict.noRecord (parseReading raw) .badCheck).fields)
    | _ => none

/-- A GO with the port IDLE (R150): the request is copied, and answered by the port or presented. -/
def takeRequest (h : Header) (op : PortOp) (s : State) : State :=
  let code := portOpCode op
  if s.readiness = .initialising then
    respond code h.tag (.plain .notReady (portRefusal op)) s
  else
    match op with
    | .unknown _ =>
      respond code h.tag (.plain .unknownCommand []) { s with gate := gateAfterOther s.gate }
    | .openConfig key =>
      let g := gateAfterKey s.gate key
      respond code h.tag (.plain g.2 [u8 g.1.code]) { s with gate := g.1 }
    | .closeConfig =>
      respond code h.tag (.plain .accepted [u8 Gate.closed.code]) { s with gate := .closed }
    | .unit u =>
      let s := { s with gate := gateAfterOther s.gate }
      match portRefuses s.gate u with
      | some r => respond code h.tag r s
      | none =>
        { s with port := { s.port with phase := .waiting ⟨h, u⟩, done := false } }

/-- A write of 1 to GO with a request offered (R150, R151): taken in IDLE, ignored with OVERRUN set
in BUSY. -/
def offerRequest (h : Header) (op : PortOp) (s : State) : State :=
  if s.port.phase = .idle then takeRequest h op s
  else { s with port := { s.port with overrun := true } }

/-- A write of 1 to GO: the request is the one the request block holds. -/
def pressGo (s : State) : State :=
  let block := s.port.requestBlock.toList
  offerRequest (parseHeader block) (parseOp block) s

/-- The host writes a request's bytes into the request block. -/
def placeRequest (h : Header) (op : PortOp) (s : State) : State :=
  { s with
    port := { s.port with
      requestBlock := storeBytes s.port.requestBlock 0 (encodeRequest h op) } }

/-- A request row: the host places the request and writes GO (log 1). The bytes placed hold exactly
this request (`Obligations.PlacedRequestIsTheOneOffered`). -/
def issue (h : Header) (op : PortOp) (s : State) : Host.Outcome State Fault Refusal :=
  event s fun s => offerRequest h op (placeRequest h op s)

/-! ## The request rows -/

def execCreateLine (h : Header) (a : CreateArgs) (s : State) : Host.Outcome State Fault Refusal :=
  issue h (.unit (.createLine a)) s

def execReadLine (h : Header) (a : KeyArgs) (s : State) : Host.Outcome State Fault Refusal :=
  issue h (.unit (.readLine a)) s

def execRetireLine (h : Header) (a : KeyArgs) (s : State) : Host.Outcome State Fault Refusal :=
  issue h (.unit (.retireLine a)) s

def execMoveLine (h : Header) (a : MoveArgs) (s : State) : Host.Outcome State Fault Refusal :=
  issue h (.unit (.moveLine a)) s

def execSetLineProfile (h : Header) (a : LineProfileArgs) (s : State) :
    Host.Outcome State Fault Refusal :=
  issue h (.unit (.setLineProfile a)) s

def execSetAims (h : Header) (a : AimsArgs) (s : State) : Host.Outcome State Fault Refusal :=
  issue h (.unit (.setAims a)) s

def execSetLineLot (h : Header) (a : LineLotArgs) (s : State) : Host.Outcome State Fault Refusal :=
  issue h (.unit (.setLineLot a)) s

def execStartCrossover (h : Header) (a : LineLotArgs) (s : State) :
    Host.Outcome State Fault Refusal :=
  issue h (.unit (.startCrossover a)) s

def execCancelCrossover (h : Header) (a : KeyArgs) (s : State) :
    Host.Outcome State Fault Refusal :=
  issue h (.unit (.cancelCrossover a)) s

def execAcknowledge (h : Header) (a : KeyArgs) (s : State) : Host.Outcome State Fault Refusal :=
  issue h (.unit (.acknowledge a)) s

def execClearDrift (h : Header) (a : KeyArgs) (s : State) : Host.Outcome State Fault Refusal :=
  issue h (.unit (.clearDrift a)) s

def execReinstate (h : Header) (a : KeyArgs) (s : State) : Host.Outcome State Fault Refusal :=
  issue h (.unit (.reinstate a)) s

def execSubmitReading (h : Header) (a : RawReading) (s : State) :
    Host.Outcome State Fault Refusal :=
  issue h (.unit (.submitReading a)) s

def execWriteProfile (h : Header) (a : WriteProfileArgs) (s : State) :
    Host.Outcome State Fault Refusal :=
  issue h (.unit (.writeProfile a)) s

def execReadProfile (h : Header) (profile : Byte) (s : State) : Host.Outcome State Fault Refusal :=
  issue h (.unit (.readProfile profile)) s

def execFreezeProfiles (h : Header) (s : State) : Host.Outcome State Fault Refusal :=
  issue h (.unit .freezeProfiles) s

def execAddLot (h : Header) (a : AddLotArgs) (s : State) : Host.Outcome State Fault Refusal :=
  issue h (.unit (.addLot a)) s

def execReadLot (h : Header) (a : ReadLotArgs) (s : State) : Host.Outcome State Fault Refusal :=
  issue h (.unit (.readLot a)) s

def execWithdrawLot (h : Header) (lot : Word) (s : State) : Host.Outcome State Fault Refusal :=
  issue h (.unit (.withdrawLot lot)) s

def execRemoveLot (h : Header) (lot : Word) (s : State) : Host.Outcome State Fault Refusal :=
  issue h (.unit (.removeLot lot)) s

def execSetRegionHold (h : Header) (a : RegionHoldArgs) (s : State) :
    Host.Outcome State Fault Refusal :=
  issue h (.unit (.setRegionHold a)) s

def execReadRegion (h : Header) (region : Byte) (s : State) : Host.Outcome State Fault Refusal :=
  issue h (.unit (.readRegion region)) s

def execCloseDay (h : Header) (day : Half) (s : State) : Host.Outcome State Fault Refusal :=
  issue h (.unit (.closeDay day)) s

def execRegionPoll (h : Header) (s : State) : Host.Outcome State Fault Refusal :=
  issue h (.unit .regionPoll) s

def execScanLines (h : Header) (a : ScanArgs) (s : State) : Host.Outcome State Fault Refusal :=
  issue h (.unit (.scanLines a)) s

def execStartSurvey (h : Header) (margin : Byte) (s : State) : Host.Outcome State Fault Refusal :=
  issue h (.unit (.startSurvey margin)) s

def execStopSurvey (h : Header) (s : State) : Host.Outcome State Fault Refusal :=
  issue h (.unit .stopSurvey) s

def execOpenConfig (h : Header) (key : Half) (s : State) : Host.Outcome State Fault Refusal :=
  issue h (.openConfig key) s

def execCloseConfig (h : Header) (s : State) : Host.Outcome State Fault Refusal :=
  issue h .closeConfig s

/-- UNKNOWN_COMMAND (R160): the host places a request code and header and writes GO. The request
taken is the one the block then holds, so a code of the catalogue, which a well-formed command does
not carry, is that request. -/
def execUnknownCommand (h : Header) (code : Byte) (s : State) : Host.Outcome State Fault Refusal :=
  event s fun s => pressGo (placeRequest h (.unknown code) s)

/-- OVERRUN_CLEAR (R151): OVERRUN is cleared, then a GO in the same write is acted on. -/
def execOverrunClear (go : Bool) (s : State) : Host.Outcome State Fault Refusal :=
  event s fun s =>
    let s := { s with port := { s.port with overrun := false } }
    if go then pressGo s else s

/-! ## Completion of a granted request (R152, R155) -/

/-- COMMAND_COMPLETE: the request's effects, and its response unless a port reset has discarded it.
Outside the carrying out of a command request there is no such event, and nothing changes (log 2). -/
def completeCommand (s : State) : State :=
  match s.unit.inProgress with
  | some (.command req discarded) =>
    let c := carryOut s.unit req
    let s := { s with unit := { c.unit with inProgress := none } }.latchAttention c.attention
    if discarded then s
    else respond (unitOpCode req.op) req.header.tag c.reply s
  | _ => s

def execCommandComplete (s : State) : Host.Outcome State Fault Refusal := event s completeCommand

end Sys2Proof.Machine
end

