-- ==== Sys2Proof/Machine/BusLink.lean ====
section
/-! DEFINITION. The Bus Link (chapter Bus Link, Interrupts and Start-up): interrupt writes, port
reset, cold reset and initialisation, and the register window, written and read. -/

namespace Sys2Proof.Machine

open Sys2Proof

/-! ## Interrupt writes (R183, R184) -/

/-- A write to the interrupt status register: the sources written as 1 are cleared (R183). -/
def clearSources (value : Word) (s : State) : State :=
  { s with bus := { s.bus with status := s.bus.status &&& ~~~(value.setWidth 7) } }

/-- A write to the interrupt enable register sets all seven enables (R184). -/
def writeEnables (value : Word) (s : State) : State :=
  { s with bus := { s.bus with enable := value.setWidth 7 } }

def execInterruptStatusClear (value : Word) (s : State) : Host.Outcome State Fault Refusal :=
  event s (clearSources value)

def execInterruptEnableWrite (value : Word) (s : State) : Host.Outcome State Fault Refusal :=
  event s (writeEnables value)

/-! ## Port reset (R155, R178, R188) -/

/-- A granted request or reading goes on, with its response or verdict discarded (R155, R178). -/
def Grant.discard : Grant → Grant
  | .command req _ => .command req true
  | .reading data _ => .reading data true
  | .sweepStep => .sweepStep
  | .surveyStep => .surveyStep

/-- The Command Port after a port reset (R149, R155). -/
def CommandPort.portReset (p : CommandPort) : CommandPort :=
  { p with phase := .idle, done := false, overrun := false }

/-- A port reset (R188). -/
def portReset (s : State) : State :=
  let s := s.discardOutbound
  { s with
    unit := { s.unit with inProgress := s.unit.inProgress.map Grant.discard }
    port := s.port.portReset
    gate := .closed
    engine := BatchEngine.reset
    bus := { s.bus with status := 0, enable := 0 } }

/-- PORT_RESET: the same reset whatever takes it (R188). -/
def execPortReset (_cause : PortResetCause) (s : State) : Host.Outcome State Fault Refusal :=
  event s portReset

/-! ## Cold reset and initialisation (R182) -/

/-- Every block at its after-cold-reset values. The link settings stay as they are (log 6), what was
issued and not sent is discarded, and the model's own counters go on (logs 5, 7). -/
def coldValues (held : Bool) (s : State) : State :=
  let s := s.discardOutbound
  { State.reset with
    inColdReset := held
    bus := { BusLink.reset with
      busMaster := s.bus.busMaster
      msiEnabled := s.bus.msiEnabled
      msiAddress := s.bus.msiAddress
      msiData := s.bus.msiData
      sent := s.bus.sent }
    fetchSerial := s.fetchSerial
    linkTick := s.linkTick
    pending := s.pending }

/-- COLD_RESET: every operation ends at once and the part is in cold reset (R182). -/
def execColdReset (s : State) : Host.Outcome State Fault Refusal := .next (coldValues true s)

/-- COLD_RESET_END: cold reset ends, every block has its after-cold-reset values, the device is
INITIALISING and initialisation starts (R182). Outside cold reset there is no such event (log 2). -/
def execColdResetEnd (s : State) : Host.Outcome State Fault Refusal :=
  if s.inColdReset then .next (coldValues false s) else .next s

/-- Initialisation completes (R12, R182): slots cleared, ring filled, READY, READY latched. -/
def initialise (s : State) : State :=
  if s.readiness = .ready then s
  else
    { s with
      readiness := .ready
      unit := { s.unit with
        records := []
        ring := filledRing (s.unit.ring.getD 4095 0)
        ringHead := 0
        ringTail := 4095 } }.latch .ready

def execInitialisationComplete (s : State) : Host.Outcome State Fault Refusal :=
  event s initialise

/-! ## The register window, written (R179, R180) -/

/-- Offset of the first byte of the request block. -/
def requestBase : Nat := 0x080

/-- The bytes of a write that fall in the request block are stored; the block takes writes of any
size and alignment (R180). -/
def writeRequestBytes (offset : Nat) (bytes : List Byte) (s : State) : State :=
  let block :=
    if requestBase ≤ offset then storeBytes s.port.requestBlock (offset - requestBase) bytes
    else storeBytes s.port.requestBlock 0 (bytes.drop (requestBase - offset))
  { s with port := { s.port with requestBlock := block } }

/-- A write to the command control word: OVERRUN is cleared first, then GO is acted on (R151). -/
def writeCommandControl (value : Word) (s : State) : State :=
  let s :=
    if value.getLsbD 3 then { s with port := { s.port with overrun := false } } else s
  if value.getLsbD 0 then pressGo s else s

/-- A write to the batch control word, its actions in the order of R166: ARM_REFUSED clear, ABORT,
PAUSE, RESUME, ARM. -/
def writeBatchControl (value : Word) (s : State) : State :=
  let act (bit : Nat) (f : State → State) (s : State) : State := if value.getLsbD bit then f s else s
  act 0 armNext (act 3 resumeBatch (act 2 pauseBatch (act 1 abortBatch (act 4 clearArmRefused s))))

/-- An aligned 32-bit write to a register (R179, R180). Read-only and unmapped places ignore it. -/
def writeRegister32 (offset : Nat) (value : Word) (s : State) : State :=
  if offset = 0x020 then clearSources value s
  else if offset = 0x024 then writeEnables value s
  else if offset = 0x030 then (if value.getLsbD 0 then portReset s else s)
  else if offset = 0x040 then writeCommandControl value s
  else if offset = 0x200 then writeNext (.sourceLow value) s
  else if offset = 0x204 then writeNext (.sourceHigh value) s
  else if offset = 0x208 then writeNext (.count value) s
  else if offset = 0x20C then writeNext (.options value) s
  else if offset = 0x210 then writeNext (.resultLow value) s
  else if offset = 0x214 then writeNext (.resultHigh value) s
  else if offset = 0x218 then writeBatchControl value s
  else s

/-- An aligned 64-bit write to a 64-bit register (R180). -/
def writeRegister64 (offset : Nat) (value : DWord) (s : State) : State :=
  if offset = 0x200 then writeNext (.source value) s
  else if offset = 0x210 then writeNext (.result value) s
  else s

/-- A host write to the window (R180): one event, the bytes in order from an offset. The request
block stores what falls in it; a register takes an aligned write of its own width, or of one half of
a 64-bit register; every other write is ignored (log 17). -/
def windowWrite (offset : Nat) (bytes : List Byte) (s : State) : State :=
  let s := writeRequestBytes offset bytes s
  if bytes.length = 4 then writeRegister32 offset (u32At bytes 0) s
  else if bytes.length = 8 then writeRegister64 offset (BitVec.ofNat 64 (leAt bytes 0 8)) s
  else s

/-- REGISTER_WRITE (R180). At a place with a behaviour of its own the write has that behaviour
(log 19). -/
def execRegisterWrite (offset : Nat) (bytes : List Byte) (s : State) :
    Host.Outcome State Fault Refusal :=
  event s (windowWrite offset bytes)

/-! ## The register window, read (R179 to R181) -/

/-- The free count of device status: 0 during INITIALISING, when the ring is empty (R13, R181). -/
def State.freeCount (s : State) : Nat := s.unit.freeCount

/-- The live count of device status: 4095 less the free count, 0 during INITIALISING (R13, R181). -/
def State.liveCount (s : State) : Nat :=
  if s.readiness = .initialising then 0 else lastSlot - s.unit.freeCount

/-- The stop options as two bits. -/
def StopOptions.bits (o : StopOptions) : Nat := o.onAction.toNat + 2 * o.onRefusal.toNat

/-- The device state register (R179). -/
def deviceState (s : State) : Nat :=
  (if s.readiness = .ready then 1 else 0) + 2 * s.gate.code + 8 * s.unit.freeze.toNat +
    16 * s.unit.sweep.running.toNat

/-- The command control word as read (R149, R179). -/
def commandControl (s : State) : Nat :=
  2 * (decide (s.port.phase ≠ .idle)).toNat + 4 * s.port.done.toNat + 8 * s.port.overrun.toNat

/-- The batch control word as read (R179). -/
def batchControl (s : State) : Nat :=
  16 * s.engine.armRefused.toNat + 32 * s.engine.armed.toNat +
    64 * s.engine.pauseRequested.toNat + 128 * s.engine.abortPending.toNat +
    256 * s.engine.phase.code

/-- A value of FRONT, 0 while FRONT is absent (R179). -/
def frontValue (s : State) (f : Front → Nat) : Nat := s.engine.front.elim 0 f

/-- The registers of the window: offset, width in bytes, value (R179). Write-only places read 0. -/
def registers (s : State) : List (Nat × Nat × Nat) :=
  [(0x000, 4, deviceState s),
   (0x004, 4, s.unit.businessDay),
   (0x008, 4, s.liveCount + 65536 * s.freeCount),
   (0x00C, 4, s.unit.sweep.pointer),
   (0x010, 4, s.unit.survey.state.code + 256 * s.unit.survey.margin),
   (0x014, 4, s.unit.survey.visited + 65536 * s.unit.survey.marked),
   (0x018, 4, s.unit.survey.firstMarked),
   (0x020, 4, s.bus.status.toNat),
   (0x024, 4, s.bus.enable.toNat),
   (0x028, 4, s.intOutput.toNat),
   (0x030, 4, 0),
   (0x040, 4, commandControl s),
   (0x200, 8, s.engine.next.source.toNat),
   (0x208, 4, s.engine.next.count.toNat),
   (0x20C, 4, s.engine.next.options.bits),
   (0x210, 8, s.engine.next.result.toNat),
   (0x218, 4, batchControl s),
   (0x220, 4, frontValue s fun f => f.count.toNat + 65536 * f.options.bits),
   (0x224, 4, frontValue s (·.processed)),
   (0x228, 4, frontValue s (·.remaining)),
   (0x230, 8, frontValue s (·.source.toNat)),
   (0x238, 8, frontValue s (·.result.toNat)),
   (0x240, 4, s.engine.report.cause.code + 256 * s.engine.report.nextCancelled.toNat),
   (0x244, 4, s.engine.report.processed),
   (0x248, 4, s.engine.report.remaining),
   (0x250, 8, s.engine.report.nextSource.toNat),
   (0x258, 8, s.engine.report.nextResult.toNat)]

/-- One byte of the window: of the request or response block, of the register that holds the place,
or 0 where nothing is mapped (R179, R180). -/
def State.windowByte (s : State) (offset : Nat) : Byte :=
  if 0x080 ≤ offset ∧ offset < 0x0C0 then s.port.requestBlock.getD (offset - 0x080) 0
  else if 0x100 ≤ offset ∧ offset < 0x200 then s.port.responseBlock.getD (offset - 0x100) 0
  else
    match (registers s).find? fun r => decide (r.1 ≤ offset) && decide (offset < r.1 + r.2.1) with
    | some (base, _, value) => BitVec.ofNat 8 (value / 256 ^ (offset - base))
    | none => 0

/-- A host read of the window: the bytes named, each from its place's value at the read. None while
cold reset is held, when the part answers no access (R180, R182). A read changes nothing. -/
def State.windowRead (s : State) (offset length : Nat) : Option (List Byte) :=
  if s.inColdReset then none
  else some ((List.range length).map fun i => s.windowByte (offset + i))

end Sys2Proof.Machine
end

