-- ==== Sys2Proof/Machine/Dispatch.lean ====
section
/-! DEFINITION. The meaning of every command, one arm each. -/

namespace Sys2Proof.Machine

open Sys2Proof

def exec (i : Instr) (s : State) : Host.Outcome State Fault Refusal :=
  match i with
  | .createLine h a => Sys2Proof.Machine.execCreateLine h a s
  | .readLine h a => Sys2Proof.Machine.execReadLine h a s
  | .retireLine h a => Sys2Proof.Machine.execRetireLine h a s
  | .moveLine h a => Sys2Proof.Machine.execMoveLine h a s
  | .setLineProfile h a => Sys2Proof.Machine.execSetLineProfile h a s
  | .setAims h a => Sys2Proof.Machine.execSetAims h a s
  | .setLineLot h a => Sys2Proof.Machine.execSetLineLot h a s
  | .startCrossover h a => Sys2Proof.Machine.execStartCrossover h a s
  | .cancelCrossover h a => Sys2Proof.Machine.execCancelCrossover h a s
  | .acknowledge h a => Sys2Proof.Machine.execAcknowledge h a s
  | .clearDrift h a => Sys2Proof.Machine.execClearDrift h a s
  | .reinstate h a => Sys2Proof.Machine.execReinstate h a s
  | .submitReading h a => Sys2Proof.Machine.execSubmitReading h a s
  | .writeProfile h a => Sys2Proof.Machine.execWriteProfile h a s
  | .readProfile h profile => Sys2Proof.Machine.execReadProfile h profile s
  | .freezeProfiles h => Sys2Proof.Machine.execFreezeProfiles h s
  | .addLot h a => Sys2Proof.Machine.execAddLot h a s
  | .readLot h a => Sys2Proof.Machine.execReadLot h a s
  | .withdrawLot h lot => Sys2Proof.Machine.execWithdrawLot h lot s
  | .removeLot h lot => Sys2Proof.Machine.execRemoveLot h lot s
  | .setRegionHold h a => Sys2Proof.Machine.execSetRegionHold h a s
  | .readRegion h region => Sys2Proof.Machine.execReadRegion h region s
  | .closeDay h day => Sys2Proof.Machine.execCloseDay h day s
  | .regionPoll h => Sys2Proof.Machine.execRegionPoll h s
  | .scanLines h a => Sys2Proof.Machine.execScanLines h a s
  | .startSurvey h margin => Sys2Proof.Machine.execStartSurvey h margin s
  | .stopSurvey h => Sys2Proof.Machine.execStopSurvey h s
  | .openConfig h key => Sys2Proof.Machine.execOpenConfig h key s
  | .closeConfig h => Sys2Proof.Machine.execCloseConfig h s
  | .unknownCommand h code => Sys2Proof.Machine.execUnknownCommand h code s
  | .overrunClear go => Sys2Proof.Machine.execOverrunClear go s
  | .arm => Sys2Proof.Machine.execArm s
  | .abort => Sys2Proof.Machine.execAbort s
  | .pause => Sys2Proof.Machine.execPause s
  | .resume => Sys2Proof.Machine.execResume s
  | .armRefusedClear => Sys2Proof.Machine.execArmRefusedClear s
  | .nextFieldWrite w => Sys2Proof.Machine.execNextFieldWrite w s
  | .interruptStatusClear value => Sys2Proof.Machine.execInterruptStatusClear value s
  | .interruptEnableWrite value => Sys2Proof.Machine.execInterruptEnableWrite value s
  | .portReset cause => Sys2Proof.Machine.execPortReset cause s
  | .registerWrite offset bytes => Sys2Proof.Machine.execRegisterWrite offset bytes s
  | .coldReset => Sys2Proof.Machine.execColdReset s
  | .initialisationComplete => Sys2Proof.Machine.execInitialisationComplete s
  | .readCompletion fetch data => Sys2Proof.Machine.execReadCompletion fetch data s
  | .fetchError fetch => Sys2Proof.Machine.execFetchError fetch s
  | .fetchTimeout => Sys2Proof.Machine.execFetchTimeout s
  | .recordUnitGrant => Sys2Proof.Machine.execRecordUnitGrant s
  | .commandComplete => Sys2Proof.Machine.execCommandComplete s
  | .batchReadingComplete => Sys2Proof.Machine.execBatchReadingComplete s
  | .sweepStep => Sys2Proof.Machine.execSweepStep s
  | .surveyStep => Sys2Proof.Machine.execSurveyStep s
  | .coldResetEnd => Sys2Proof.Machine.execColdResetEnd s

end Sys2Proof.Machine
end

