-- ==== Sys2Proof/Safety.lean ====
section
/-! DEFINITION. The terms the statements use: when a command request is carried out, what it leaves
in the port, and the invariants of the part. -/

namespace Sys2Proof.Machine

open Sys2Proof

/-! ## Running a request through the part -/

/-- The part is in service: outside cold reset and READY. -/
def State.inService (s : State) : Prop := s.inColdReset = false ∧ s.readiness = .ready

/-- A request taken now is the next one granted: the part is in service, the port IDLE, the Record
Unit free, no background client is owed, and the Batch Engine does not wait or was granted last
(R15). -/
def State.portFirst (s : State) : Prop :=
  s.inService ∧ s.port.phase = .idle ∧ s.unit.inProgress = none ∧
    (s.waitingReading = none ∨ s.unit.arbiter.lastForeground = .batchEngine) ∧
    (s.unit.sweepWaits = true → s.unit.arbiter.sweepCount < 8) ∧
    (s.unit.surveyWaits = true → s.unit.arbiter.surveyCount < 8)

/-- A command, then a grant, then the completion of a command request, one after another. -/
def CarriesOut (c : Instr) (s t : State) : Prop :=
  ∃ s₁ s₂, exec c s = .next s₁ ∧ exec .recordUnitGrant s₁ = .next s₂ ∧
    exec .commandComplete s₂ = .next t

/-- The row of spec/opcode_table.json that issues a request of the Record Unit. -/
def rowOf (h : Header) : UnitOp → Instr
  | .createLine a => .createLine h a
  | .readLine a => .readLine h a
  | .retireLine a => .retireLine h a
  | .moveLine a => .moveLine h a
  | .setLineProfile a => .setLineProfile h a
  | .setAims a => .setAims h a
  | .setLineLot a => .setLineLot h a
  | .startCrossover a => .startCrossover h a
  | .cancelCrossover a => .cancelCrossover h a
  | .acknowledge a => .acknowledge h a
  | .clearDrift a => .clearDrift h a
  | .reinstate a => .reinstate h a
  | .submitReading a => .submitReading h a
  | .writeProfile a => .writeProfile h a
  | .readProfile profile => .readProfile h profile
  | .freezeProfiles => .freezeProfiles h
  | .addLot a => .addLot h a
  | .readLot a => .readLot h a
  | .withdrawLot lot => .withdrawLot h lot
  | .removeLot lot => .removeLot h lot
  | .setRegionHold a => .setRegionHold h a
  | .readRegion region => .readRegion h region
  | .closeDay day => .closeDay h day
  | .regionPoll => .regionPoll h
  | .scanLines a => .scanLines h a
  | .startSurvey margin => .startSurvey h margin
  | .stopSurvey => .stopSurvey h

/-- The row that issues any request of the port. -/
def portRowOf (h : Header) : PortOp → Instr
  | .unit op => rowOf h op
  | .openConfig key => .openConfig h key
  | .closeConfig => .closeConfig h
  | .unknown code => .unknownCommand h code

/-- The key a request names its record by, for the requests on a named record other than
CREATE_LINE and SUBMIT_READING (R17). -/
def namedKey : UnitOp → Option (Word × Byte)
  | .readLine a => some (a.site, a.line)
  | .retireLine a => some (a.site, a.line)
  | .moveLine a => some (a.site, a.line)
  | .setLineProfile a => some (a.site, a.line)
  | .setAims a => some (a.site, a.line)
  | .setLineLot a => some (a.site, a.line)
  | .startCrossover a => some (a.site, a.line)
  | .cancelCrossover a => some (a.site, a.line)
  | .acknowledge a => some (a.site, a.line)
  | .clearDrift a => some (a.site, a.line)
  | .reinstate a => some (a.site, a.line)
  | _ => none

/-- Whether a status bit is latched. -/
def State.latched (s : State) (src : Source) : Bool := s.bus.status.getLsbD src.bit

/-- Everything the requests of the Record Unit leave alone outside it: readiness, gate but for
KEY1_SEEN, Batch Engine, OVERRUN, enables, link settings and the model's own counters. -/
def OutsideUnchanged (s t : State) : Prop :=
  t.inColdReset = s.inColdReset ∧ t.readiness = s.readiness ∧ t.gate = gateAfterOther s.gate ∧
    t.engine = s.engine ∧ t.port.overrun = s.port.overrun ∧ t.bus.enable = s.bus.enable ∧
    t.bus.busMaster = s.bus.busMaster ∧ t.bus.msiEnabled = s.bus.msiEnabled ∧
    t.bus.msiAddress = s.bus.msiAddress ∧ t.bus.msiData = s.bus.msiData ∧
    t.bus.sent = s.bus.sent ∧ t.fetchSerial = s.fetchSerial ∧ t.linkTick = s.linkTick ∧
    t.pending = s.pending

/-- One interrupt message goes out behind everything issued before it where the interrupt output
passes from deasserted to asserted with message signalling and bus mastering enabled, and nothing
goes out otherwise (R184, R185, R187). -/
def Announced (s t : State) : Prop :=
  t.bus.outbound =
    if !s.intOutput && t.intOutput && s.bus.msiEnabled && s.bus.busMaster then
      s.bus.outbound ++ [.message s.bus.msiAddress s.bus.msiData]
    else s.bus.outbound

/-- The arbiter after the grant of a command request (R15). -/
def State.afterGrant (s : State) : Arbiter :=
  s.unit.arbiter.afterForeground .commandPort s.unit.sweepWaits s.unit.surveyWaits

/-- A Record Unit as a served command request leaves it: the one given, with the grant counted and
nothing under way. -/
def State.served (s : State) (u : RecordUnit) : RecordUnit :=
  { u with arbiter := s.afterGrant, inProgress := none }

/-- A request of the Record Unit has been served: the Record Unit `u`, the whole response of R152 and
R156 in the block, IDLE, DONE, COMMAND_DONE latched, ATTENTION latched where `attention`, and
everything else of the part as it stood. -/
structure Served (s t : State) (h : Header) (op : UnitOp) (u : RecordUnit) (attention : Bool)
    (r : Reply) : Prop where
  unit : t.unit = u
  port : t.port =
    { phase := .idle
      done := true
      overrun := s.port.overrun
      requestBlock := storeBytes s.port.requestBlock 0 (encodeRequest h (.unit op))
      responseBlock := responseOf (unitOpCode op) h.tag r }
  status : t.bus.status =
    (s.bus.status ||| if attention then Source.attention.mask else 0) ||| Source.commandDone.mask
  announced : Announced s t
  outside : OutsideUnchanged s t

/-- A request has been answered by the port itself: the response, IDLE, DONE, COMMAND_DONE latched,
the gate as given, and everything else of the part, the whole Record Unit and Batch Engine included,
as it stood (R150, R152, R153). -/
structure AnsweredByPort (s t : State) (h : Header) (op : PortOp) (g : Gate) (r : Reply) : Prop where
  unit : t.unit = s.unit
  engine : t.engine = s.engine
  gate : t.gate = g
  port : t.port =
    { phase := .idle
      done := true
      overrun := s.port.overrun
      requestBlock := storeBytes s.port.requestBlock 0 (encodeRequest h op)
      responseBlock := responseOf (portOpCode op) h.tag r }
  status : t.bus.status = s.bus.status ||| Source.commandDone.mask
  announced : Announced s t
  enable : t.bus.enable = s.bus.enable
  sent : t.bus.sent = s.bus.sent
  settings : t.bus.busMaster = s.bus.busMaster ∧ t.bus.msiEnabled = s.bus.msiEnabled ∧
    t.bus.msiAddress = s.bus.msiAddress ∧ t.bus.msiData = s.bus.msiData
  readiness : t.readiness = s.readiness
  others : t.inColdReset = s.inColdReset ∧ t.fetchSerial = s.fetchSerial ∧
    t.linkTick = s.linkTick ∧ t.pending = s.pending

/-- What the Batch Engine's own events leave alone: Record Unit, Command Port, gate, readiness,
enables, link settings and what has been sent. -/
structure OnlyBatch (s t : State) : Prop where
  unit : t.unit = s.unit
  port : t.port = s.port
  gate : t.gate = s.gate
  readiness : t.readiness = s.readiness
  enable : t.bus.enable = s.bus.enable
  sent : t.bus.sent = s.bus.sent
  settings : t.bus.busMaster = s.bus.busMaster ∧ t.bus.msiEnabled = s.bus.msiEnabled ∧
    t.bus.msiAddress = s.bus.msiAddress ∧ t.bus.msiData = s.bus.msiData
  others : t.inColdReset = s.inColdReset ∧ t.linkTick = s.linkTick ∧ t.pending = s.pending

/-! ## Words of the request rules -/

/-- A key in range (R17). -/
def KeyInRange (site : Word) (line : Byte) : Prop :=
  1 ≤ site.toNat ∧ site.toNat ≤ 1048575 ∧ line.toNat ≤ 7

/-- The expected version is absent or equal to the record's (R18). -/
def VersionAgrees (h : Header) (r : LineRecord) : Prop :=
  h.flags.getLsbD 0 = true → h.version = r.version

/-- The range checks of a request beyond its key: region, profile number, aims, lot code (R17, R23,
R24, R86, R117, R130). -/
def OwnFieldsInRange : UnitOp → Prop
  | .moveLine a => a.region.toNat ≤ 63
  | .setLineProfile a => a.profile.toNat ≤ 31
  | .setAims a => ∀ i : Fin 12, -5500 ≤ a.aims[i].toInt ∧ a.aims[i].toInt ≤ 5500
  | .setLineLot a => a.lot ≠ 0
  | .startCrossover a => a.lot ≠ 0
  | _ => True

/-- The region's attention count after a record's bit has gone from `before` to `after` (R134). -/
def countFollows (u : RecordUnit) (region : Fin 64) (before after : Bool) : RecordUnit :=
  match before, after with
  | false, true => addAttention u region
  | true, false => dropAttention u region
  | _, _ => u

/-- Whether that change passes the region's count from 0 (R134). -/
def countPasses (u : RecordUnit) (region : Fin 64) (before after : Bool) : Bool :=
  !before && after && decide (u.regions[region].attentionCount = 0)

/-- The status of the first row of a table of checks that does not hold. -/
def firstFailure : List (Bool × Status) → Option Status
  | [] => none
  | (holds, status) :: rest => if holds then firstFailure rest else some status

/-- The checks of CREATE_LINE in their order (R19). -/
def createTable (u : RecordUnit) (a : CreateArgs) : List (Bool × Status) :=
  let kind := kindOfCode a.kind.toNat
  let profileKind := (u.profiles.getD a.profile.toNat Profile.unset).kind
  let entry := u.findLot a.lot
  [(decide (1 ≤ a.site.toNat ∧ a.site.toNat ≤ 1048575 ∧ a.line.toNat ≤ 7 ∧ a.region.toNat ≤ 63 ∧
      kind.isSome ∧ a.profile.toNat ≤ 31), .badParameter),
   ((u.lookup a.site.toNat a.line.toNat).isNone, .exists),
   (decide (u.ringHead ≠ u.ringTail), .tableFull),
   (profileKind.isSome, .noProfile),
   (decide (profileKind = kind), .wrongKind),
   (decide (a.lot = 0) || entry.isSome, .unknownLot),
   (decide (a.lot = 0) || entry.any fun i => decide (u.lots[i].state ≠ .withdrawn), .lotWithdrawn),
   (decide (a.lot = 0) || entry.any fun i => decide (u.lots[i].kind = kind), .wrongKind)]

/-- The checks of SET_LINE_LOT on the caught-up record, in their order (R130, rows 5 to 8). -/
def setLotTable (u : RecordUnit) (r : LineRecord) (code : Word) : List (Bool × Status) :=
  let entry := u.findLot code
  [(r.crossover.isNone, .crossoverOpen),
   (entry.isSome, .unknownLot),
   (entry.any fun i => decide (u.lots[i].state ≠ .withdrawn), .lotWithdrawn),
   (entry.any fun i => decide (u.lots[i].kind = some r.kind), .wrongKind)]

/-- The checks of START_CROSSOVER on the caught-up record, in their order (R117, rows 5 to 10). -/
def crossoverTable (u : RecordUnit) (r : LineRecord) (code : Word) : List (Bool × Status) :=
  let entry := u.findLot code
  [(decide (r.state = .active), .badState),
   (r.crossover.isNone, .crossoverOpen),
   (entry.isSome, .unknownLot),
   (entry.any fun i => decide (u.lots[i].state ≠ .withdrawn), .lotWithdrawn),
   (entry.any fun i => decide (u.lots[i].kind = some r.kind), .wrongKind),
   (entry.any fun i => decide (r.lot ≠ some i), .badParameter)]

/-- The checks of SET_AIMS on the caught-up record, in their order (R86, rows 5 to 7). -/
def aimsTable (r : LineRecord) (aims : Vector Half 12) : List (Bool × Status) :=
  [(points.all fun i => isPoint r.kind i || aims[i] == 0, .badParameter),
   (decide (r.state ≠ .lapsed ∧ r.state ≠ .reinstating), .badState),
   (decide (r.state ≠ .new) || r.lot.isSome, .badState)]

/-- The checks of WRITE_PROFILE past the profile number, in their order (R28, rows 2 to 5), with the
ranges of R26. -/
def profileTable (u : RecordUnit) (entry : Profile) (a : WriteProfileArgs) : List (Bool × Status) :=
  [(decide (a.kind.toNat ≤ 3), .badParameter),
   (decide (a.kind.toNat = 0) || decide (
      3 ≤ a.runLimit.toNat ∧ a.runLimit.toNat ≤ 15 ∧ 1 ≤ a.baselineCount.toNat ∧
        a.baselineCount.toNat ≤ 8 ∧ 1 ≤ a.stripInterval.toNat ∧ a.stripInterval.toNat ≤ 7 ∧
        1 ≤ a.lapseLimit.toNat ∧ a.lapseLimit.toNat ≤ 15 ∧ 1 ≤ a.crossoverPairs.toNat ∧
        a.crossoverPairs.toNat ≤ 5 ∧ ∀ q : Fin 4,
          1 ≤ a.limits[q].w.toNat ∧ a.limits[q].w.toNat ≤ 2000 ∧
            a.limits[q].w.toNat ≤ a.limits[q].a.toNat ∧ a.limits[q].a.toNat ≤ 2000 ∧
            a.limits[q].k.toNat ≤ 500 ∧ 1 ≤ a.limits[q].h.toNat ∧ a.limits[q].h.toNat ≤ 5000 ∧
            1 ≤ a.limits[q].tolerance.toNat ∧ a.limits[q].tolerance.toNat ≤ 500), .badParameter),
   (!u.freeze, .locked),
   (decide (entry.useCount = 0) || decide (kindOfCode a.kind.toNat = entry.kind), .inUse)]

/-- The admission checks of a reading on the caught-up record, in their order (R49 to R52). -/
def admissionTable (u : RecordUnit) (r : LineRecord) (rd : Reading) : List (Bool × Status) :=
  let entry := u.findLot rd.lotCode
  let current := decide (entry.isSome ∧ r.lot = entry)
  let incoming := decide (entry.isSome ∧ r.incomingLot = entry)
  [(decide (kindOfCode rd.kind.toNat = some r.kind), .wrongKind),
   (points.all fun i => decide (rd.densities[i].toNat ≤ 5000), .range),
   (points.all fun i => isPoint r.kind i || rd.densities[i] == 0, .range),
   (decide (rd.day ≤ u.businessDay), .futureDay),
   (decide (u.businessDay ≤ rd.day + 7), .tooOld),
   (entry.isSome, .unknownLot),
   (entry.any fun i => decide (u.lots[i].state ≠ .withdrawn), .lotWithdrawn),
   (decide (r.state ≠ .lapsed), .lapsed),
   (current || incoming, .lotNotAttached),
   (r.crossover.isNone || decide (rd.day = u.businessDay), .crossoverDay),
   (!rd.replace || (decide (r.state = .active) && r.crossover.isNone && r.snapshot.any fun n =>
      decide (n.day = rd.day) && decide (some n.lot = entry)), .noSnapshot),
   (rd.replace || !current || r.lastReading.all fun last => decide (last ≤ rd.day), .outOfOrder),
   (rd.replace || !current || r.lastReading.all fun last => decide (last ≠ rd.day), .duplicateDay),
   (rd.replace || current || (r.crossover.bind (·.held)).all fun held =>
      decide (¬(held.side = .new ∧ held.day = rd.day)), .duplicateDay)]

/-- The effects of every evaluated reading on its record (R62). -/
def afterEvaluation (interval businessDay day : Nat) (r : LineRecord) : LineRecord :=
  { r with
    lastReading := some day
    countdown := if r.state = .active then max 1 (interval - (businessDay - day)) else r.countdown
    missed := 0
    readingCount := min 65535 (r.readingCount + 1)
    version := r.version + 1
    marginal := false
    attention := r.wantsAttention }

/-- A record graded by a reading's corrected values: statistics, level, acknowledged level (R71). -/
def gradedLine (pr : Profile) (aims corrected : Points Int) (r : LineRecord) : LineRecord :=
  let stats := gradeStats pr r.kind aims corrected r.stats
  { r with stats := stats, level := statsLevel stats, ackLevel := r.ackLevel.min (statsLevel stats) }

/-- The corrected values of a reading under a lot's offsets, 0 at positions that are no plot point of
the kind (R69, R70). -/
def correctedBy (u : RecordUnit) (kind : ProcessKind) (lot : Fin 64) (rd : Reading) : Points Int :=
  build12 fun i => if isPoint kind i then plotValue rd i - u.lots[lot].offsets[i] else 0

/-- A record as an accepted reading of a side leaves it before the reading meets the crossover: the
NEW side only advances the version (R61), the OLD side is graded and evaluated (R60, R120). -/
def beforeMeeting (w : Touch) (side : Side) (day : Nat) (aims values : Points Int) : LineRecord :=
  match side with
  | .new => { w.line with version := w.line.version + 1 }
  | .old =>
    afterEvaluation w.profile.stripInterval w.unit.businessDay day
      (gradedLine w.profile aims values w.line)

/-- The difference sums after a pair: NEW less OLD added on every point (R122). -/
def sumsAfter (c : Crossover) (newValues oldValues : Points Int) : Points Int :=
  build12 fun i => c.sums[i] + (newValues[i] - oldValues[i])

/-- What a change request on a named record reports when it is refused after its record was found: the
fields of its response as they stand after catch-up (R157, R162; state and attention where the
catalogue has none of them: log 28). -/
def standingContent (w : Touch) (op : UnitOp) : List Field :=
  let x := w.line
  let levels := [u8 x.state.code, u8 x.level.code, u8 x.ackLevel.code, flag x.attention]
  let progress := [u8 x.state.code, u8 (x.crossover.elim 0 (·.pairsDone)),
    u8 (x.crossover.elim 0 (·.pairsRequired))]
  match op with
  | .moveLine _ => [u8 x.region.val, u16 w.unit.regions[x.region].liveCount,
      u16 w.unit.regions[x.region].attentionCount]
  | .setLineProfile _ => [u8 x.profile.val, u16 w.unit.profiles[x.profile].useCount]
  | .setAims _ => levels
  | .setLineLot _ => [u8 x.state.code, u8 (x.lot.elim 0xFF (·.val)),
      u32 (x.lot.elim 0 fun i => w.unit.lots[i].code.toNat)]
  | .startCrossover _ => progress
  | .cancelCrossover _ => progress
  | .acknowledge _ => levels ++ [u16 w.unit.regions[x.region].attentionCount]
  | .clearDrift _ => levels
  | .reinstate _ => levels ++ [u8 x.countdown, u8 x.missed]
  | _ => []

/-- The Record Unit after a walk has caught up records one after another (R99, R139). -/
def walked (u : RecordUnit) (visited : List LineRecord) : RecordUnit :=
  visited.foldl (fun v r => (touch v r).commit) u

/-- Whether some catch-up of that walk latches ATTENTION (R134, R139). -/
def walkLatches (u : RecordUnit) : List LineRecord → Bool
  | [] => false
  | r :: rest => (touch u r).attention || walkLatches (touch u r).commit rest

/-- A field of `width` bytes stands at an offset of a list of bytes, least significant byte first. -/
def Shows (bytes : List Byte) (offset width value : Nat) : Prop :=
  leAt bytes offset width = value % 256 ^ width

/-- A signed field in two's complement. -/
def ShowsInt (bytes : List Byte) (offset width : Nat) (value : Int) : Prop :=
  Shows bytes offset width (BitVec.ofInt (8 * width) value).toNat

/-- The lowest offset at or after one given that is a multiple of a field's width (R193). -/
def nextPlace (offset width : Nat) : Nat := (offset + width - 1) / width * width

/-- Where fields end that are placed one after another from an offset (R193). -/
def placesEnd : Nat → List Field → Nat
  | offset, [] => offset
  | offset, f :: rest => placesEnd (nextPlace offset f.width + f.width) rest

/-- The content of a response fits the block behind its header. -/
def FitsBlock (content : List Field) : Prop :=
  (∀ f ∈ content, 0 < f.width) ∧ placesEnd 8 content ≤ 256

/-- Fields stand one after another from an offset, each at the next multiple of its width, and every
other position of the block from that offset on holds 0 (R152, R193). -/
def ShowsFields (bytes : List Byte) : Nat → List Field → Prop
  | offset, [] => ∀ o, offset ≤ o → o < 256 → Shows bytes o 1 0
  | offset, f :: rest =>
    let place := nextPlace offset f.width
    (∀ o, offset ≤ o → o < place → Shows bytes o 1 0) ∧ Shows bytes place f.width f.value ∧
      ShowsFields bytes (place + f.width) rest

/-- A whole response stands in the response block: the header of R193, then the content. -/
structure ShowsResponse (bytes : List Byte) (code : Byte) (tag : Half) (r : Reply) : Prop where
  code : Shows bytes 0 1 code.toNat
  status : Shows bytes 1 1 r.status.code
  tag : Shows bytes 2 2 tag.toNat
  slot : Shows bytes 4 2 r.slot
  version : Shows bytes 6 2 r.version.toNat
  content : ShowsFields bytes 8 r.content

/-- A key stands at the head of a request's parameters: site at 8, line at 12 (R193; READ_LINE's by
log 14). -/
def ShowsKey (bytes : List Byte) (code : Nat) (site : Word) (line : Byte) : Prop :=
  Shows bytes 0 1 code ∧ Shows bytes 8 4 site.toNat ∧ Shows bytes 12 1 line.toNat

/-- Twelve 2-byte values stand from offset 14 (SET_AIMS, ADD_LOT). -/
def ShowsHalves (bytes : List Byte) (v : Vector Half 12) : Prop :=
  ∀ i : Fin 12, Shows bytes (14 + 2 * i.val) 2 v[i].toNat

/-- A request stands in the request block: its code at byte 0 and each parameter at the offset that
R193's placement gives it in the catalogue's order, or its own layout for SCAN_LINES and
SUBMIT_READING. A code that names no request is outside the catalogue's groups. -/
def ShowsRequest (bytes : List Byte) : PortOp → Prop
  | .unit (.createLine a) => ShowsKey bytes 0x01 a.site a.line ∧ Shows bytes 13 1 a.region.toNat ∧
      Shows bytes 14 1 a.kind.toNat ∧ Shows bytes 15 1 a.profile.toNat ∧
      Shows bytes 16 4 a.lot.toNat
  | .unit (.readLine a) => ShowsKey bytes 0x02 a.site a.line
  | .unit (.retireLine a) => ShowsKey bytes 0x03 a.site a.line
  | .unit (.moveLine a) => ShowsKey bytes 0x04 a.site a.line ∧ Shows bytes 13 1 a.region.toNat
  | .unit (.setLineProfile a) =>
      ShowsKey bytes 0x05 a.site a.line ∧ Shows bytes 13 1 a.profile.toNat
  | .unit (.setAims a) => ShowsKey bytes 0x06 a.site a.line ∧ ShowsHalves bytes a.aims
  | .unit (.setLineLot a) => ShowsKey bytes 0x07 a.site a.line ∧ Shows bytes 16 4 a.lot.toNat
  | .unit (.startCrossover a) => ShowsKey bytes 0x08 a.site a.line ∧ Shows bytes 16 4 a.lot.toNat
  | .unit (.cancelCrossover a) => ShowsKey bytes 0x09 a.site a.line
  | .unit (.acknowledge a) => ShowsKey bytes 0x0A a.site a.line
  | .unit (.clearDrift a) => ShowsKey bytes 0x0B a.site a.line
  | .unit (.reinstate a) => ShowsKey bytes 0x0C a.site a.line
  | .unit (.submitReading raw) => Shows bytes 0 1 0x0D ∧
      ∀ i : Fin 48, Shows bytes (8 + i.val) 1 raw[i].toNat
  | .unit (.writeProfile a) => Shows bytes 0 1 0x20 ∧ Shows bytes 8 1 a.profile.toNat ∧
      Shows bytes 9 1 a.kind.toNat ∧ Shows bytes 10 1 a.runLimit.toNat ∧
      Shows bytes 11 1 a.baselineCount.toNat ∧ Shows bytes 12 1 a.stripInterval.toNat ∧
      Shows bytes 13 1 a.lapseLimit.toNat ∧ Shows bytes 14 1 a.crossoverPairs.toNat ∧
      ∀ q : Fin 4,
        Shows bytes (16 + 10 * q.val) 2 a.limits[q].w.toNat ∧
          Shows bytes (18 + 10 * q.val) 2 a.limits[q].a.toNat ∧
          Shows bytes (20 + 10 * q.val) 2 a.limits[q].k.toNat ∧
          Shows bytes (22 + 10 * q.val) 2 a.limits[q].h.toNat ∧
          Shows bytes (24 + 10 * q.val) 2 a.limits[q].tolerance.toNat
  | .unit (.readProfile n) => Shows bytes 0 1 0x21 ∧ Shows bytes 8 1 n.toNat
  | .unit .freezeProfiles => Shows bytes 0 1 0x22
  | .unit (.addLot a) => Shows bytes 0 1 0x23 ∧ Shows bytes 8 4 a.lot.toNat ∧
      Shows bytes 12 1 a.kind.toNat ∧ ShowsHalves bytes a.offsets
  | .unit (.readLot a) => Shows bytes 0 1 0x24 ∧ Shows bytes 8 4 a.lot.toNat ∧
      Shows bytes 12 1 a.entry.toNat
  | .unit (.withdrawLot lot) => Shows bytes 0 1 0x25 ∧ Shows bytes 8 4 lot.toNat
  | .unit (.removeLot lot) => Shows bytes 0 1 0x26 ∧ Shows bytes 8 4 lot.toNat
  | .unit (.setRegionHold a) => Shows bytes 0 1 0x27 ∧ Shows bytes 8 1 a.region.toNat ∧
      Shows bytes 9 1 a.mode.toNat
  | .unit (.readRegion n) => Shows bytes 0 1 0x28 ∧ Shows bytes 8 1 n.toNat
  | .unit (.closeDay day) => Shows bytes 0 1 0x40 ∧ Shows bytes 8 2 day.toNat
  | .unit .regionPoll => Shows bytes 0 1 0x41
  | .unit (.scanLines a) => Shows bytes 0 1 0x42 ∧ Shows bytes 8 2 a.start.toNat ∧
      Shows bytes 10 1 a.region.toNat ∧ Shows bytes 11 1 a.states.toNat ∧
      Shows bytes 12 1 a.minLevel.toNat ∧ Shows bytes 13 1 a.attentionOnly.toNat ∧
      Shows bytes 14 1 a.marginalOnly.toNat ∧ Shows bytes 15 1 a.maximum.toNat
  | .unit (.startSurvey p) => Shows bytes 0 1 0x43 ∧ Shows bytes 8 1 p.toNat
  | .unit .stopSurvey => Shows bytes 0 1 0x44
  | .openConfig key => Shows bytes 0 1 0x60 ∧ Shows bytes 8 2 key.toNat
  | .closeConfig => Shows bytes 0 1 0x61
  | .unknown code => Shows bytes 0 1 code.toNat ∧
      ¬(0x01 ≤ code.toNat ∧ code.toNat ≤ 0x0D) ∧ ¬(0x20 ≤ code.toNat ∧ code.toNat ≤ 0x28) ∧
      ¬(0x40 ≤ code.toNat ∧ code.toNat ≤ 0x44) ∧ ¬(0x60 ≤ code.toNat ∧ code.toNat ≤ 0x61)

/-- A request header stands in the request block: the flags at byte 1, of which bit 0 says that an
expected version is present, the tag at 2 and the expected version at 4 (R193). -/
structure ShowsHeader (bytes : List Byte) (h : Header) : Prop where
  flags : Shows bytes 1 1 h.flags.toNat
  present : versionPresent h = (leAt bytes 1 1).testBit 0
  tag : Shows bytes 2 2 h.tag.toNat
  version : Shows bytes 4 2 h.version.toNat

/-- Statistics of twelve points stand from an offset, 8 bytes each (R194). -/
def ShowsStats (bytes : List Byte) (offset : Nat) (stats : Points PointStats) : Prop :=
  ∀ i : Fin 12,
    let p := stats[i]
    let o := offset + 8 * i.val
    ShowsInt bytes o 2 (p.lastDev.getD 0) ∧ Shows bytes (o + 2) 2 p.cusumHigh ∧
      Shows bytes (o + 4) 2 p.cusumLow ∧ ShowsInt bytes (o + 6) 1 p.run ∧
      Shows bytes (o + 7) 1 (p.flags.shift.toNat + 2 * p.flags.excursion.toNat +
        4 * p.flags.trend.toNat + 8 * p.flags.drift.toNat + 128 * p.lastDev.isSome.toNat)

/-- The part area of the record image: the baseline part, else the crossover part, else the snapshot
part, else nothing (R194). -/
def ShowsPart (bytes : List Byte) (lots : Vector Lot 64) (r : LineRecord) : Prop :=
  match r.baseline, r.crossover, r.snapshot with
  | some b, _, _ => Shows bytes 30 1 1 ∧ Shows bytes 156 1 b.taken ∧
      ∀ i : Fin 12, ShowsInt bytes (160 + 4 * i.val) 4 b.sums[i]
  | none, some c, _ => Shows bytes 30 1 2 ∧ Shows bytes 156 1 c.incoming.val ∧
      Shows bytes 157 1 c.pairsRequired ∧ Shows bytes 158 1 c.pairsDone ∧
      Shows bytes 159 1 (c.held.elim 0 fun h => if h.side = .old then 1 else 2) ∧
      Shows bytes 160 4 lots[c.incoming].code.toNat ∧
      Shows bytes 164 2 (c.held.elim 0 (·.day)) ∧
      ∀ i : Fin 12, ShowsInt bytes (168 + 4 * i.val) 4 c.sums[i] ∧
        ShowsInt bytes (216 + 2 * i.val) 2 (c.held.elim 0 (·.values[i]))
  | none, none, some n => Shows bytes 30 1 3 ∧ Shows bytes 156 2 n.day ∧
      Shows bytes 158 1 n.lot.val ∧ Shows bytes 159 1 n.level.code ∧ ShowsStats bytes 160 n.stats
  | none, none, none => Shows bytes 30 1 0 ∧ ∀ o, 156 ≤ o → o < 256 → Shows bytes o 1 0

/-- The record image stands in the response block (R194). -/
structure ShowsImage (bytes : List Byte) (lots : Vector Lot 64) (r : LineRecord) : Prop where
  key : Shows bytes 8 4 (r.site % 2 ^ 20 + 2 ^ 20 * (r.lineNo % 8))
  place : Shows bytes 12 1 r.region.val ∧ Shows bytes 13 1 r.kind.code ∧
    Shows bytes 14 1 r.profile.val ∧ Shows bytes 15 1 r.state.code
  days : Shows bytes 16 2 r.creationDay ∧ Shows bytes 18 2 r.closedDay ∧
    Shows bytes 20 2 (r.lastReading.getD 0) ∧ Shows bytes 22 2 r.readingCount ∧
    Shows bytes 24 1 r.countdown ∧ Shows bytes 25 1 r.missed
  levels : Shows bytes 26 1 r.level.code ∧ Shows bytes 27 1 r.ackLevel.code
  indications : Shows bytes 28 1 (r.attention.toNat + 2 * r.marginal.toNat +
    4 * r.lapseEvent.toNat + 8 * r.mismatchEvent.toNat + 16 * r.lastReading.isSome.toNat +
    32 * r.lot.isSome.toNat + 64 * r.aims.isSome.toNat)
  lot : Shows bytes 29 1 (r.lot.elim 0 (·.val)) ∧
    Shows bytes 32 4 (r.lot.elim 0 fun i => lots[i].code.toNat)
  aims : ∀ i : Fin 12, ShowsInt bytes (36 + 2 * i.val) 2 (r.aims.elim 0 (·[i]))
  stats : ShowsStats bytes 60 r.stats
  part : ShowsPart bytes lots r

/-- A verdict stands in its 32 bytes (R192); with no worst point bytes 20 to 23 hold 0. -/
structure ShowsVerdict (bytes : List Byte) (v : Verdict) : Prop where
  length : bytes.length = 32
  echoes : Shows bytes 0 4 v.hostTag.toNat ∧ Shows bytes 4 4 v.site.toNat ∧
    Shows bytes 8 1 v.line.toNat
  codes : Shows bytes 9 1 v.status.code ∧ Shows bytes 10 1 v.outcome.code ∧
    Shows bytes 11 1 v.state.code
  record : Shows bytes 12 2 v.slot ∧ Shows bytes 14 2 v.version.toNat ∧
    Shows bytes 16 1 v.level.code ∧ Shows bytes 17 1 v.ackLevel.code
  indications : Shows bytes 18 1
    (v.attention.toNat + 2 * v.newAction.toNat + 4 * v.worst.isSome.toNat)
  newKinds : Shows bytes 19 1 (v.newKinds.shift.toNat + 2 * v.newKinds.excursion.toNat +
    4 * v.newKinds.trend.toNat + 8 * v.newKinds.drift.toNat)
  worst : Shows bytes 20 1 (v.worst.elim 0 (·.quantity)) ∧
    Shows bytes 21 1 (v.worst.elim 0 (·.channel)) ∧ ShowsInt bytes 22 2 (v.worst.elim 0 (·.deviation))
  progress : Shows bytes 24 1 v.pairsDone ∧ Shows bytes 25 1 v.pairsRequired ∧
    Shows bytes 26 1 v.countdown
  reserved : ∀ o, 27 ≤ o → o < 32 → Shows bytes o 1 0

/-- What a verdict on a record reports: the echoes, the record at the end of the request, the
new-action indicator, the new kinds against the record at its start, and the worst point (R65,
R66). -/
structure Reports (v : Verdict) (rd : Reading) (status : Status) (outcome : ReadingOutcome)
    (start r : LineRecord) (progress : Nat × Nat) : Prop where
  echoes : v.hostTag = rd.hostTag ∧ v.site = rd.site ∧ v.line = rd.line ∧ v.status = status ∧
    v.outcome = outcome
  record : v.state = r.state ∧ v.slot = r.slot ∧ v.version = r.version ∧ v.level = r.level ∧
    v.ackLevel = r.ackLevel ∧ v.attention = r.attention ∧ v.countdown = r.countdown
  crossover : v.pairsDone = progress.1 ∧ v.pairsRequired = progress.2
  newAction : v.newAction = true ↔ start.level ≠ .action ∧ r.level = .action
  newKinds : ∀ kind ∈ [Flags.shift, Flags.excursion, Flags.trend, Flags.drift],
    kind v.newKinds = true ↔
      ∃ i : Fin 12, kind r.stats[i].flags = true ∧ kind start.stats[i].flags = false
  noWorst : (∀ i : Fin 12, r.stats[i].lastDev = none) → v.worst = none
  worst : ∀ (i : Fin 12) (d : Int), r.stats[i].lastDev = some d →
    (∀ (j : Fin 12) (e : Int), r.stats[j].lastDev = some e →
      r.stats[j].flags.level.code < r.stats[i].flags.level.code ∨
        r.stats[j].flags.level = r.stats[i].flags.level ∧
          (e.natAbs < d.natAbs ∨ e.natAbs = d.natAbs ∧ i ≤ j)) →
    v.worst = some ⟨i.val / 3, if r.kind = .mono then 3 else i.val % 3, d⟩

/-- What the fields of a reading are: the numbers that stand in its 48 bytes, least significant byte
first, as R191 lays them out. -/
structure ReadsRecord (raw : RawReading) (rd : Reading) : Prop where
  echoes : rd.hostTag.toNat = leAt raw.toList 0 4 ∧ rd.site.toNat = leAt raw.toList 4 4 ∧
    rd.line.toNat = leAt raw.toList 8 1
  kind : rd.kind.toNat = leAt raw.toList 9 1
  replace : rd.replace = (leAt raw.toList 10 1).testBit 0
  day : rd.day = leAt raw.toList 12 2
  lotCode : rd.lotCode.toNat = leAt raw.toList 16 4
  densities : ∀ i : Fin 12, rd.densities[i].toNat = leAt raw.toList (20 + 2 * i.val) 2

/-- A row acted on within a write that carries several actions, where its bit is written as 1
(R166). -/
def ActsOn (bit : Bool) (c : Instr) (s t : State) : Prop :=
  if bit then exec c s = .next t else t = s

/-- The memory reads of a fetch of 48 bytes: one, two where it crosses a 4 KiB boundary, none with bus
mastering disabled (R186). -/
def fetchReads (busMaster : Bool) (address : DWord) : List LinkRead :=
  let room := 4096 - address.toNat % 4096
  if !busMaster then []
  else if 48 ≤ room then [⟨address, 48⟩]
  else [⟨address, room⟩, ⟨address + BitVec.ofNat 64 room, 48 - room⟩]

/-- The engine after its batch has ended without a promotion (R174). -/
def endedEngine (e : BatchEngine) (f : Front) (cause : EndCause) : BatchEngine :=
  { phase := .idle
    front := none
    next := if e.armed then Descriptor.zero else e.next
    armed := false
    armRefused := e.armRefused
    pauseRequested := false
    abortPending := false
    report := ⟨cause, f.processed, f.remaining, f.source, f.result, e.armed⟩
    flight := none }

/-- The engine after the promotion of NEXT into a RUNNING or, where a pause was requested, a PAUSED
batch (R167); `serial` is the number of the fetch issued. -/
def promotedEngine (e : BatchEngine) (report : EndReport) (busMaster : Bool) (serial : Nat) :
    BatchEngine :=
  { phase := if e.pauseRequested then .paused else .running
    front := some
      { count := e.next.count, options := e.next.options, source := e.next.source,
        result := e.next.result, processed := 0, remaining := e.next.count.toNat }
    next := Descriptor.zero
    armed := false
    armRefused := e.armRefused
    pauseRequested := false
    abortPending := false
    report := report
    flight := if e.pauseRequested then none
      else some (.fetch serial (fetchReads busMaster e.next.source)) }

/-- The first end cause that holds after the reading at FRONT, with verdict `v`, has been processed
(R173). -/
def endedBy (e : BatchEngine) (f : Front) (v : Verdict) : Option EndCause :=
  if e.abortPending then some .aborted
  else if f.options.onAction = true ∧ v.newAction = true then some .stopAction
  else if f.options.onRefusal = true ∧ v.status ≠ .accepted then some .stopRefusal
  else if f.remaining ≤ 1 then some .complete
  else none

/-- FRONT past the reading it names: 48 bytes on in the source, 32 in the results (R172). -/
def pastReading (f : Front) : Front :=
  { f with
    processed := f.processed + 1
    remaining := f.remaining - 1
    source := f.source + 48
    result := f.result + 32 }

/-- The reading at FRONT has been processed with verdict `v`: the verdict is issued at the result
address, or lost with bus mastering disabled; the counters and addresses advance; the batch then ends
with the first cause that holds, promoting an armed NEXT on COMPLETE alone; else the engine pauses
where a pause was requested; else the next fetch is issued (R172 to R174, R176, R187). `latched` is
what the status already holds within the event. -/
structure ReadingProcessed (s t : State) (f : Front) (v : Verdict) (latched : BitVec 7) : Prop where
  promotes : endedBy s.engine f v = some .complete → s.engine.armed = true →
    t.engine = promotedEngine s.engine
        ⟨.complete, f.processed + 1, f.remaining - 1, f.source + 48, f.result + 32, false⟩
        s.bus.busMaster s.fetchSerial ∧
      t.fetchSerial = (if s.engine.pauseRequested then s.fetchSerial else s.fetchSerial + 1) ∧
      t.bus.status = (latched ||| Source.batchEnd.mask) ||| Source.nextTaken.mask
  ends : ∀ cause, endedBy s.engine f v = some cause →
    ¬(cause = .complete ∧ s.engine.armed = true) →
      t.engine = endedEngine s.engine (pastReading f) cause ∧ t.fetchSerial = s.fetchSerial ∧
        t.bus.status = latched ||| Source.batchEnd.mask
  pauses : endedBy s.engine f v = none → s.engine.pauseRequested = true →
    t.engine = { s.engine with
        phase := .paused
        front := some (pastReading f)
        pauseRequested := false
        flight := none } ∧
      t.fetchSerial = s.fetchSerial ∧ t.bus.status = latched
  fetches : endedBy s.engine f v = none → s.engine.pauseRequested = false →
    t.engine = { s.engine with
        front := some (pastReading f)
        flight := some (.fetch s.fetchSerial (fetchReads s.bus.busMaster (f.source + 48))) } ∧
      t.fetchSerial = s.fetchSerial + 1 ∧ t.bus.status = latched
  outbound : t.bus.outbound = s.bus.outbound ++
    (if s.bus.busMaster then writeItems f.result v.bytes else []) ++
    if !s.intOutput && t.intOutput && s.bus.msiEnabled && s.bus.busMaster then
      [.message s.bus.msiAddress s.bus.msiData]
    else []
  others : t.port = s.port ∧ t.gate = s.gate ∧ t.readiness = s.readiness ∧
    t.inColdReset = s.inColdReset ∧ t.bus.enable = s.bus.enable ∧ t.bus.sent = s.bus.sent ∧
    t.linkTick = s.linkTick ∧ t.pending = s.pending

/-- What work on one record leaves alone in the Record Unit: every other slot, the key index, the
ring, the business day, the freeze, the walkers, every profile but for its use count, every lot but
for its user counts, every region's modes. -/
def OnlyRecord (slot : Nat) (u v : RecordUnit) : Prop :=
  (∀ n, n ≠ slot → v.recordAt n = u.recordAt n) ∧ v.index = u.index ∧ v.ring = u.ring ∧
    v.ringHead = u.ringHead ∧ v.ringTail = u.ringTail ∧ v.businessDay = u.businessDay ∧
    v.freeze = u.freeze ∧ v.sweep = u.sweep ∧ v.survey = u.survey ∧
    (∀ i : Fin 32, { v.profiles[i] with useCount := 0 } = { u.profiles[i] with useCount := 0 }) ∧
    (∀ i : Fin 64, { v.lots[i] with currentUsers := 0, incomingUsers := 0 } =
      { u.lots[i] with currentUsers := 0, incomingUsers := 0 }) ∧
    (∀ i : Fin 64, { v.regions[i] with liveCount := 0, attentionCount := 0 } =
      { u.regions[i] with liveCount := 0, attentionCount := 0 })

/-! ## Invariants -/

/-- The Batch Engine (R164, R165, R167 to R175): FRONT is present exactly outside IDLE and its
counters add up; a reading is in flight exactly in RUNNING; an abort pends only on a granted reading;
an armed NEXT is a descriptor that ARM accepts; a fetch outstanding has a number already given; and
the engine is IDLE while the device is INITIALISING. -/
structure EngineInv (s : State) : Prop where
  front_iff : s.engine.front.isSome = true ↔ s.engine.phase ≠ .idle
  counters : ∀ f, s.engine.front = some f →
    f.processed + f.remaining = f.count.toNat ∧ 0 < f.remaining
  idle_clear : s.engine.phase = .idle →
    s.engine.armed = false ∧ s.engine.pauseRequested = false ∧ s.engine.abortPending = false
  paused_clear : s.engine.phase = .paused →
    s.engine.pauseRequested = false ∧ s.engine.abortPending = false
  flight_iff : s.engine.flight.isSome = true ↔ s.engine.phase = .running
  abort_granted : s.engine.abortPending = true → s.engine.flight = some .granted
  granted_iff : s.engine.flight = some .granted ↔
    ∃ data, s.unit.inProgress = some (.reading data false)
  armed_good : s.engine.armed = true →
    s.engine.next.count ≠ 0 ∧ aligned16 s.engine.next.source = true ∧
      aligned16 s.engine.next.result = true
  serial_given : ∀ n reads, s.engine.flight = some (.fetch n reads) → n < s.fetchSerial
  initialising_idle : s.readiness = .initialising → s.engine.phase = .idle

/-- The clients of the Record Unit (R14, R15, R16, R111, R142): the port waits on a granted request
exactly while it is being carried out, a walker step is carried out only while its walker runs and
with its count at 0, a walker's pointer is a slot exactly while it runs, the arbiter's counts are at
most 8 and 0 for a walker that does not run, and nothing is under way while INITIALISING or in cold
reset. -/
structure ClientInv (s : State) : Prop where
  port_granted : s.port.phase = .granted ↔ ∃ req, s.unit.inProgress = some (.command req false)
  sweep_step : s.unit.inProgress = some .sweepStep →
    s.unit.sweep.running = true ∧ s.unit.arbiter.sweepCount = 0
  survey_step : s.unit.inProgress = some .surveyStep →
    s.unit.survey.state = .running ∧ s.unit.arbiter.surveyCount = 0
  sweep_pointer : if s.unit.sweep.running = true
    then 1 ≤ s.unit.sweep.pointer ∧ s.unit.sweep.pointer ≤ lastSlot
    else s.unit.sweep.pointer = 0
  survey_pointer : if s.unit.survey.state = .running
    then 1 ≤ s.unit.survey.pointer ∧ s.unit.survey.pointer ≤ lastSlot
    else s.unit.survey.pointer = 0
  sweep_count : s.unit.arbiter.sweepCount ≤ 8 ∧
    (s.unit.sweep.running = false → s.unit.arbiter.sweepCount = 0)
  survey_count : s.unit.arbiter.surveyCount ≤ 8 ∧
    (s.unit.survey.state ≠ .running → s.unit.arbiter.surveyCount = 0)
  initialising_quiet : s.readiness = .initialising →
    s.port.phase = .idle ∧ s.unit.inProgress = none ∧ s.unit.sweep.running = false ∧
      s.unit.survey.state ≠ .running
  held_initialising : s.inColdReset = true → s.readiness = .initialising

/-- The statistics of one point (R6, R73, R75, R76): sums and run within their bounds, SHIFT and
EXCURSION never together, and a point with no last deviation in its starting condition. -/
def PointInv (p : PointStats) : Prop :=
  p.cusumHigh ≤ 32767 ∧ p.cusumLow ≤ 32767 ∧ -15 ≤ p.run ∧ p.run ≤ 15 ∧
    ¬(p.flags.shift = true ∧ p.flags.excursion = true) ∧
    (p.lastDev = none → p = PointStats.start)

/-- The parts a record may hold in each state (R92). -/
def StateParts (r : LineRecord) : Prop :=
  match r.state with
  | .new => r.aims = none ∧ r.baseline = none ∧ r.crossover = none ∧ r.snapshot = none ∧
      r.countdown = 0
  | .baseline => r.aims = none ∧ r.baseline.isSome = true ∧ r.lot.isSome = true ∧
      r.crossover = none ∧ r.snapshot = none ∧ r.countdown = 0
  | .active => r.aims.isSome = true ∧ r.baseline = none ∧ r.lot.isSome = true ∧
      (r.crossover.isSome = true → r.snapshot = none)
  | .lapsed => r.aims.isSome = true ∧ r.baseline = none ∧ r.lot.isSome = true ∧
      r.crossover = none ∧ r.snapshot = none ∧ r.countdown = 0
  | .reinstating => r.aims.isSome = true ∧ r.baseline = none ∧ r.lot.isSome = true ∧
      r.crossover = none ∧ r.snapshot = none

/-- A line record by itself (R3 to R8, R63, R80, R81, R92, R116, R133): parts by state, level from
the flags, acknowledged level not above it, attention by its condition, statistics in bounds, an
incoming lot other than the current lot, a snapshot under the current lot. -/
structure LineInv (r : LineRecord) : Prop where
  parts : StateParts r
  level_derived : r.level = statsLevel r.stats
  ack_below : r.ackLevel.code ≤ r.level.code
  attention_condition : r.attention = r.wantsAttention
  points_ok : ∀ i : Fin 12, PointInv r.stats[i]
  spare_points : ∀ i : Fin 12, isPoint r.kind i = false → r.stats[i] = PointStats.start
  count_bound : r.readingCount ≤ 65535
  incoming_other : ∀ x, r.crossover = some x → r.lot ≠ some x.incoming
  snapshot_ok : ∀ n, r.snapshot = some n →
    r.lot = some n.lot ∧ n.level = statsLevel n.stats ∧ (∀ i : Fin 12, PointInv n.stats[i]) ∧
      ∀ i : Fin 12, isPoint r.kind i = false → n.stats[i] = PointStats.start

/-- Every live record meets `LineInv`. -/
def LinesInv (s : State) : Prop := ∀ r ∈ s.unit.records, LineInv r

/-- The slots the ring holds, from the head (R12). -/
def RecordUnit.heldSlots (u : RecordUnit) : List Nat :=
  (List.range u.freeCount).map fun i => u.ringAt (u.ringHead + i)

/-- Slots, key index and ring (R1, R10 to R13): records in strict slot order in slots 1 to 4095 with
keys all different; each chain without repeats and holding exactly the live slots of its bucket; and,
once READY, each slot live or in the ring exactly once and not both, the ring and the table being
empty before. -/
structure TableInv (s : State) : Prop where
  slots_rise : s.unit.records.Pairwise fun a b => a.slot < b.slot
  slots_range : ∀ r ∈ s.unit.records, 1 ≤ r.slot ∧ r.slot ≤ lastSlot
  keys_differ : s.unit.records.Pairwise fun a b => ¬(a.site = b.site ∧ a.lineNo = b.lineNo)
  chains_nodup : ∀ b : Fin 1024, s.unit.index[b].Nodup
  chains_hold : ∀ (b : Fin 1024) (n : Nat), n ∈ s.unit.index[b] ↔
    ∃ r ∈ s.unit.records, r.slot = n ∧ bucketOf r.site r.lineNo = b
  ring_range : s.unit.ringHead < 4096 ∧ s.unit.ringTail < 4096
  ring_nodup : s.unit.heldSlots.Nodup
  ring_holds : s.readiness = .ready → ∀ n, n ∈ s.unit.heldSlots ↔
    1 ≤ n ∧ n ≤ lastSlot ∧ s.unit.recordAt n = none
  before_ready : s.readiness = .initialising →
    s.unit.records = [] ∧ s.unit.ringHead = s.unit.ringTail

/-- The parameters of a profile: in their ranges where it is set, 0 where it is UNSET (R26). -/
def ProfileInv (p : Profile) : Prop :=
  (p.kind = none → { p with useCount := 0 } = Profile.unset) ∧
  (p.kind ≠ none → 3 ≤ p.runLimit ∧ p.runLimit ≤ 15 ∧ 1 ≤ p.baselineCount ∧ p.baselineCount ≤ 8 ∧
    1 ≤ p.stripInterval ∧ p.stripInterval ≤ 7 ∧ 1 ≤ p.lapseLimit ∧ p.lapseLimit ≤ 15 ∧
    1 ≤ p.crossoverPairs ∧ p.crossoverPairs ≤ 5 ∧ ∀ q : Fin 4,
      1 ≤ p.limits[q].w ∧ p.limits[q].w ≤ p.limits[q].a ∧ p.limits[q].a ≤ 2000 ∧
        p.limits[q].k ≤ 500 ∧ 1 ≤ p.limits[q].h ∧ p.limits[q].h ≤ 5000 ∧
        1 ≤ p.limits[q].tolerance ∧ p.limits[q].tolerance ≤ 500)

/-- The counts kept beside the records (R27, R37, R42), the kinds of the profiles and lots that
records name (R2, R26, R36), and the record fields whose ranges come from a profile (R3, R4). -/
structure CountsInv (s : State) : Prop where
  profile_use : ∀ i : Fin 32, s.unit.profiles[i].useCount =
    s.unit.records.countP fun r => r.profile == i
  region_live : ∀ i : Fin 64, s.unit.regions[i].liveCount =
    s.unit.records.countP fun r => r.region == i
  region_attention : ∀ i : Fin 64, s.unit.regions[i].attentionCount =
    s.unit.records.countP fun r => r.region == i && r.attention
  lot_current : ∀ i : Fin 64, s.unit.lots[i].currentUsers =
    s.unit.records.countP fun r => r.lot == some i
  lot_incoming : ∀ i : Fin 64, s.unit.lots[i].incomingUsers =
    s.unit.records.countP fun r => r.incomingLot == some i
  profiles_ok : ∀ i : Fin 32, ProfileInv s.unit.profiles[i]
  profile_kind : ∀ r ∈ s.unit.records, s.unit.profiles[r.profile].kind = some r.kind
  current_kind : ∀ r ∈ s.unit.records, ∀ i, r.lot = some i →
    s.unit.lots[i].state ≠ .free ∧ s.unit.lots[i].kind = some r.kind
  incoming_kind : ∀ r ∈ s.unit.records, ∀ x, r.crossover = some x →
    s.unit.lots[x.incoming].state ≠ .free ∧ s.unit.lots[x.incoming].kind = some r.kind
  countdown_range : ∀ r ∈ s.unit.records, r.state = .active ∨ r.state = .reinstating →
    1 ≤ r.countdown ∧ r.countdown ≤ 7
  missed_range : ∀ r ∈ s.unit.records, r.missed ≤ 15 ∧ (r.state ≠ .lapsed → r.missed < 15)
  pairs_range : ∀ r ∈ s.unit.records, ∀ x, r.crossover = some x →
    x.pairsDone < x.pairsRequired ∧ x.pairsRequired ≤ 5

/-- The business day and the records (R63, R98, R119): no record ahead of the day or more than 7 days
behind, none behind while the sweep is idle or below its pointer, and a snapshot or held reading of
the record's closed-through day. -/
structure ClosedInv (s : State) : Prop where
  day_bound : s.unit.businessDay ≤ 65535
  window : ∀ r ∈ s.unit.records,
    r.closedDay ≤ s.unit.businessDay ∧ s.unit.businessDay ≤ r.closedDay + 7
  closed : ∀ r ∈ s.unit.records,
    s.unit.sweep.running = false ∨ r.slot < s.unit.sweep.pointer →
      r.closedDay = s.unit.businessDay
  snapshot_day : ∀ r ∈ s.unit.records, ∀ n, r.snapshot = some n →
    n.day = r.closedDay ∧ r.lastReading = some n.day
  held_day : ∀ r ∈ s.unit.records, ∀ x, r.crossover = some x → ∀ h, x.held = some h →
    h.day = r.closedDay

end Sys2Proof.Machine
end

