-- ==== Sys2Proof/Certificates/Slice0/Obligations.lean ====
section
/-! DEFINITION. The statements for the provers: one definition each, named for what it states. -/

open Sys2Proof Sys2Proof.Machine

/-! ## The queue and the outcomes -/

/-- A step with a command at the front of the queue is that command's meaning on the state with the
rest of the queue. On an empty queue the link sends the oldest item issued and not yet sent; with none,
or in cold reset, the block idles (the model's choice, log 4; the order is R187's). -/
def Obligations.StepRunsTheFrontCommand : Prop :=
  (∀ (c : Instr) (s : State), step { s with pending := c :: s.pending } = exec c s) ∧
  ∀ s : State, s.pending = [] →
    (s.inColdReset = true ∨ s.bus.outbound = [] → step s = .next s) ∧
    ∀ item rest, s.inColdReset = false → s.bus.outbound = item :: rest →
      step s = .next { s with
        bus := { s.bus with
          outbound := rest
          sent := s.bus.sent ++ [item] } }

/-- Every command is answered by a next state, in every state, and leaves the queue alone. -/
def Obligations.EveryCommandGivesANextState : Prop :=
  ∀ (c : Instr) (s : State), ∃ t, exec c s = .next t ∧ t.pending = s.pending

/-! ## Reset and start-up (R1, R10, R12, R14, R26, R34, R35, R42, R95, R111, R142, R149, R158, R164,
R182, R188) -/

/-- The machine right after reset: the after-cold-reset values of every block. -/
def Obligations.ResetHoldsTheAfterColdResetValues : Prop :=
  let s := State.reset
  s.unit.records = [] ∧ (∀ b : Fin 1024, s.unit.index[b] = []) ∧ s.unit.ringHead = 0 ∧
    s.unit.ringTail = 0 ∧
    (∀ i : Fin 32, s.unit.profiles[i] =
      { kind := none, runLimit := 0, baselineCount := 0, stripInterval := 0, lapseLimit := 0
        crossoverPairs := 0, limits := Vector.replicate 4 ⟨0, 0, 0, 0, 0⟩, useCount := 0 }) ∧
    (∀ i : Fin 64, s.unit.lots[i] =
      { state := .free, code := 0, kind := none, offsets := Vector.replicate 12 0
        currentUsers := 0, incomingUsers := 0 }) ∧
    (∀ i : Fin 64, s.unit.regions[i] = ⟨.run, .run, 0, 0⟩) ∧
    s.unit.businessDay = 0 ∧ s.unit.freeze = false ∧ s.unit.sweep = ⟨false, 0⟩ ∧
    s.unit.survey = ⟨.noResult, 0, 0, 0, 0, 0⟩ ∧
    s.unit.arbiter = ⟨0, 0, .batchEngine, .survey⟩ ∧ s.unit.inProgress = none ∧
    s.port.phase = .idle ∧ s.port.done = false ∧ s.port.overrun = false ∧
    (∀ i : Fin 64, s.port.requestBlock[i] = 0) ∧ (∀ i : Fin 256, s.port.responseBlock[i] = 0) ∧
    s.gate = .closed ∧ s.engine.phase = .idle ∧ s.engine.front = none ∧
    s.engine.next = ⟨0, 0, 0, ⟨false, false⟩⟩ ∧ s.engine.armed = false ∧
    s.engine.armRefused = false ∧ s.engine.pauseRequested = false ∧
    s.engine.abortPending = false ∧ s.engine.report = ⟨.noEnd, 0, 0, 0, 0, false⟩ ∧
    s.engine.flight = none ∧ s.bus.status = 0 ∧ s.bus.enable = 0 ∧ s.bus.outbound = [] ∧
    s.readiness = .initialising ∧ s.pending = []

/-- COLD_RESET holds the part in reset with every operation ended and nothing left to send;
COLD_RESET_END, while it is held, leaves every block at its reset value, INITIALISING; and while it is
held no other command changes anything. The link settings and the number of the next fetch stand; what
has been sent stays, with a free part of what was still to send behind it, and the index of the free
value advances where there was any (the model's choices, logs 5 to 8). -/
def Obligations.ColdResetEndsEverything : Prop :=
  ∀ s : State,
    let goesOn (t : State) : Prop :=
      t.bus.busMaster = s.bus.busMaster ∧ t.bus.msiEnabled = s.bus.msiEnabled ∧
        t.bus.msiAddress = s.bus.msiAddress ∧ t.bus.msiData = s.bus.msiData ∧
        t.fetchSerial = s.fetchSerial ∧
        (s.bus.outbound = [] → t.bus.sent = s.bus.sent ∧ t.linkTick = s.linkTick) ∧
        (s.bus.outbound ≠ [] → t.linkTick = s.linkTick + 1 ∧
          ∃ n, t.bus.sent = s.bus.sent ++ s.bus.outbound.take n) ∧
        t.pending = s.pending
    (∃ t, exec .coldReset s = .next t ∧ t.inColdReset = true ∧ t.readiness = .initialising ∧
      t.unit = RecordUnit.reset ∧ t.port = CommandPort.reset ∧ t.gate = .closed ∧
      t.engine = BatchEngine.reset ∧ t.bus.status = 0 ∧ t.bus.enable = 0 ∧ t.bus.outbound = [] ∧
      goesOn t) ∧
    (s.inColdReset = true →
      (∃ t, exec .coldResetEnd s = .next t ∧ t.inColdReset = false ∧ t.readiness = .initialising ∧
        t.unit = RecordUnit.reset ∧ t.port = CommandPort.reset ∧ t.gate = .closed ∧
        t.engine = BatchEngine.reset ∧ t.bus.status = 0 ∧ t.bus.enable = 0 ∧
        t.bus.outbound = [] ∧ goesOn t) ∧
      ∀ c, c ≠ .coldReset → c ≠ .coldResetEnd → exec c s = .next s)

/-- INITIALISATION_COMPLETE fills the ring with slots 1 to 4095 in order, makes the device READY and
latches READY; the rest of the part stands. -/
def Obligations.InitialisationFillsTheRing : Prop :=
  ∀ s : State, s.inColdReset = false → s.readiness = .initialising →
    ∃ t, exec .initialisationComplete s = .next t ∧ t.readiness = .ready ∧
      t.unit.records = [] ∧ t.unit.ringHead = 0 ∧ t.unit.ringTail = 4095 ∧
      (∀ p, p < 4095 → t.unit.ringAt p = p + 1) ∧ t.unit.freeCount = 4095 ∧
      t.bus.status = s.bus.status ||| Source.ready.mask ∧ Announced s t ∧
      { t.unit with
        records := s.unit.records
        ring := s.unit.ring
        ringHead := s.unit.ringHead
        ringTail := s.unit.ringTail } = s.unit ∧
      t.port = s.port ∧ t.gate = s.gate ∧ t.engine = s.engine ∧ t.bus.enable = s.bus.enable ∧
      t.bus.sent = s.bus.sent ∧ t.inColdReset = false ∧ t.pending = s.pending

/-- A port reset, whatever takes it, resets the interface side, discards what was issued and not yet
sent, lets a granted request or reading go on with its answer discarded, and leaves the Record Unit's
state and the readiness as they stand (R155, R178, R188). How much had already been sent is a free
value (log 5). -/
def Obligations.PortResetLeavesTheRecordUnit : Prop :=
  ∀ (s : State) (cause : PortResetCause), s.inColdReset = false →
    ∃ t, exec (.portReset cause) s = .next t ∧
      t.port = { s.port with phase := .idle, done := false, overrun := false } ∧
      t.gate = .closed ∧ t.engine = BatchEngine.reset ∧ t.bus.status = 0 ∧ t.bus.enable = 0 ∧
      t.intOutput = false ∧ t.bus.outbound = [] ∧
      (∃ n, t.bus.sent = s.bus.sent ++ s.bus.outbound.take n) ∧ t.readiness = s.readiness ∧
      { t.unit with inProgress := s.unit.inProgress } = s.unit ∧
      (∀ req d, s.unit.inProgress = some (.command req d) →
        t.unit.inProgress = some (.command req true)) ∧
      (∀ data d, s.unit.inProgress = some (.reading data d) →
        t.unit.inProgress = some (.reading data true)) ∧
      (s.unit.inProgress = some .sweepStep → t.unit.inProgress = some .sweepStep) ∧
      (s.unit.inProgress = some .surveyStep → t.unit.inProgress = some .surveyStep) ∧
      (s.unit.inProgress = none → t.unit.inProgress = none) ∧ t.pending = s.pending

/-! ## Command Port (R149 to R163, R193) -/

/-- The request a block holds is read where R193 puts it: code at byte 0, the expected-version flag in
bit 0 of byte 1, tag at 2, expected version at 4, and each parameter at its own offset, whatever the
other bytes hold (READ_LINE's parameters by log 14). A request placed in the block is the request the
block then holds, whatever it held before: its code, header and every parameter read back, at every
value. -/
def Obligations.PlacedRequestIsTheOneOffered : Prop :=
  (∀ block : Vector Byte 64,
    ShowsHeader block.toList (parseHeader block.toList) ∧
      ShowsRequest block.toList (parseOp block.toList)) ∧
  ∀ (block : Vector Byte 64) (h : Header) (op : PortOp),
    (∀ code, op = .unknown code → code ∉ knownCodes) →
      parseOp (storeBytes block 0 (encodeRequest h op)).toList = op ∧
        parseHeader (storeBytes block 0 (encodeRequest h op)).toList = h

/-- A request of the Record Unit that the port does not refuse, written with the port IDLE, is copied
and waits: BUSY, DONE clear, a gate in KEY1_SEEN back to CLOSED, nothing else changed but the block
the host wrote (R150 steps 1, 5 and 8). -/
def Obligations.RequestIsTakenAndWaits : Prop :=
  ∀ (s : State) (h : Header) (op : UnitOp), s.inService → s.port.phase = .idle →
    portRefuses (gateAfterOther s.gate) op = none →
      exec (rowOf h op) s = .next { s with
        gate := gateAfterOther s.gate
        port := { s.port with
          phase := .waiting ⟨h, op⟩
          done := false
          requestBlock := storeBytes s.port.requestBlock 0 (encodeRequest h (.unit op)) } }

/-- A GO written while the port is BUSY is ignored and sets OVERRUN: the block holds what was written
and nothing else changes, the gate included. OVERRUN_CLEAR clears OVERRUN; with a GO in the same write
the clearing comes first, so that a busy port sets it again and an idle port takes the request its
block holds (R149, R151). -/
def Obligations.BusyGoIsIgnoredWithOverrun : Prop :=
  ∀ s : State, s.inColdReset = false →
    (∀ (h : Header) (op : PortOp), s.port.phase ≠ .idle →
      exec (portRowOf h op) s = .next { s with
        port := { s.port with
          overrun := true
          requestBlock := storeBytes s.port.requestBlock 0 (encodeRequest h op) } }) ∧
    exec (.overrunClear false) s = .next { s with port := { s.port with overrun := false } } ∧
    (s.port.phase ≠ .idle →
      exec (.overrunClear true) s = .next { s with port := { s.port with overrun := true } }) ∧
    ∀ (h : Header) (op : PortOp) (block : Vector Byte 64), s.port.phase = .idle →
      (∀ code, op = .unknown code → code ∉ knownCodes) →
      s.port.requestBlock = storeBytes block 0 (encodeRequest h op) →
        exec (.overrunClear true) s =
          exec (portRowOf h op) { s with port := { s.port with overrun := false } }

/-- While INITIALISING every request is answered NOT_READY with its code and tag echoed, slot 0 and
version 0, and leaves the gate as it stands (R150 step 2, R154). Its content is the model's reading of
R65, R157 and R193 (log 13): the verdict of a SUBMIT_READING with host tag and key echoed, entry 0xFF
for a SET_LINE_LOT, 0 otherwise. -/
def Obligations.InitialisingAnswersNotReady : Prop :=
  ∀ (s : State) (h : Header) (op : PortOp), s.inColdReset = false →
    s.readiness = .initialising → s.port.phase = .idle →
    (∀ code, op = .unknown code → code ∉ knownCodes) →
      ∃ t, exec (portRowOf h op) s = .next t ∧
        AnsweredByPort s t h op s.gate ⟨.notReady, 0, 0,
          match op with
          | .unit (.setLineLot _) => [u8 0, u8 0xFF, u32 0]
          | .unit (.submitReading raw) => (Verdict.noRecord (parseReading raw) .notReady).fields
          | _ => []⟩

/-- A code of no request is answered UNKNOWN_COMMAND with code and tag echoed, slot 0, version 0 and no
content; a gate in KEY1_SEEN returns to CLOSED, and one in OPEN or CLOSED is left (R160). -/
def Obligations.UnknownCodeIsAnswered : Prop :=
  ∀ (s : State) (h : Header) (code : Byte), s.inService → s.port.phase = .idle →
    code ∉ knownCodes →
      ∃ t, exec (.unknownCommand h code) s = .next t ∧
        AnsweredByPort s t h (.unknown code)
          (if s.gate = .key1Seen then .closed else s.gate) ⟨.unknownCommand, 0, 0, []⟩

/-- OPEN_CONFIG moves the gate by the table of R158 and CLOSE_CONFIG sets it to CLOSED from any state,
each reporting the gate state at its end; that a gate state's byte is R179's register code is log 30. -/
def Obligations.GateFollowsItsKeys : Prop :=
  ∀ (s : State) (h : Header), s.inService → s.port.phase = .idle →
    (∀ key : Half, ∃ t, exec (.openConfig h key) s = .next t ∧
      ∃ g st, AnsweredByPort s t h (.openConfig key) g
          ⟨st, 0, 0, [u8 (match g with | .closed => 0 | .key1Seen => 1 | .opened => 2)]⟩ ∧
        (s.gate ≠ .key1Seen → key = 0x4D31 → g = .key1Seen ∧ st = .accepted) ∧
        (s.gate ≠ .key1Seen → key ≠ 0x4D31 → g = .closed ∧ st = .keyRejected) ∧
        (s.gate = .key1Seen → key = 0x2E97 → g = .opened ∧ st = .accepted) ∧
        (s.gate = .key1Seen → key ≠ 0x2E97 → g = .closed ∧ st = .keyRejected)) ∧
    ∃ t, exec (.closeConfig h) s = .next t ∧
      AnsweredByPort s t h .closeConfig .closed ⟨.accepted, 0, 0, [u8 0]⟩

/-- The gated requests are those five; with the gate not OPEN one is answered CONFIG_CLOSED by the
port, the gate is CLOSED, and nothing of the Record Unit changes; with it OPEN one is presented and the
gate stays OPEN; READ_PROFILE, READ_LOT, SET_REGION_HOLD and READ_REGION are presented in any gate
state (R25, R150, R158). The content 0 of a CONFIG_CLOSED response is the model's reading of R157
(log 13). -/
def Obligations.GatedRequestsNeedTheOpenGate : Prop :=
  ∀ (s : State) (h : Header) (op : UnitOp), s.inService → s.port.phase = .idle →
    ((∃ a, op = .writeProfile a) ∨ op = .freezeProfiles ∨ (∃ a, op = .addLot a) ∨
        (∃ l, op = .withdrawLot l) ∨ (∃ l, op = .removeLot l) →
      (s.gate ≠ .opened → ∃ t, exec (rowOf h op) s = .next t ∧
        AnsweredByPort s t h (.unit op) .closed ⟨.configClosed, 0, 0, []⟩) ∧
      (s.gate = .opened → ∃ t, exec (rowOf h op) s = .next t ∧ t.port.phase = .waiting ⟨h, op⟩ ∧
        t.gate = .opened ∧ t.unit = s.unit)) ∧
    ((∃ p, op = .readProfile p) ∨ (∃ a, op = .readLot a) ∨ (∃ a, op = .setRegionHold a) ∨
        (∃ r, op = .readRegion r) →
      ∃ t, exec (rowOf h op) s = .next t ∧ t.port.phase = .waiting ⟨h, op⟩ ∧ t.unit = s.unit)

/-- A SUBMIT_READING whose check code differs is answered BAD_CHECK by the port itself, with host tag
and key echoed and every record field 0, and changes no record, table or count (R47, R161). The check
code starts at 0xFFFF and takes each byte's bits from the most significant on, by the polynomial of
R191; over the characters 1 to 9 it is 0x29B1. -/
def Obligations.FailedCheckCodeIsAnsweredByThePort : Prop :=
  let bitIn (register : BitVec 16) (bit : Bool) : BitVec 16 :=
    (register <<< 1) ^^^ (if (bit ^^ register.msb) = true then 0x1021 else 0)
  (checkCode [] = 0xFFFF ∧
    (∀ (bytes : List Byte) (b : Byte), checkCode (bytes ++ [b]) =
      (List.range 8).foldl (fun register i => bitIn register (b.getLsbD (7 - i)))
        (checkCode bytes)) ∧
    checkCode [0x31, 0x32, 0x33, 0x34, 0x35, 0x36, 0x37, 0x38, 0x39] = 0x29B1) ∧
  ∀ (s : State) (h : Header) (raw : RawReading), s.inService → s.port.phase = .idle →
    checkCode (raw.toList.take 46) ≠ u16At raw.toList 46 →
      ∃ t, exec (.submitReading h raw) s = .next t ∧
        AnsweredByPort s t h (.unit (.submitReading raw)) (gateAfterOther s.gate)
          ⟨.badCheck, 0, 0,
            [u32 (leAt raw.toList 0 4), u32 (leAt raw.toList 4 4), u8 (leAt raw.toList 8 1),
             u8 0x0E, u8 0, u8 0, u16 0, u16 0, u8 0, u8 0, u8 0, u8 0, u8 0, u8 0, s16 0, u8 0,
             u8 0, u8 0, u8 0, u8 0, u8 0, u8 0, u8 0]⟩

/-- Every response that fits the block stands in it as R193 lays it out, code at 0, status at 1, tag at 2,
slot at 4, version at 6, the content from 8 field by field at multiples of each field's width, and 0 in
every other position; and what the Record Unit answers always fits. COMMAND_COMPLETE makes all the
effects of the request under way. It then writes the whole response with code and tag echoed, returns the port to IDLE, sets DONE and latches COMMAND_DONE; where a port
reset has discarded the response it writes none, sets no DONE and latches no COMMAND_DONE. Gate
and Batch Engine stand (R152, R155, R156, R189, R193). -/
def Obligations.CompletionAnswersUnlessDiscarded : Prop :=
  (∀ (code : Byte) (tag : Half) (r : Reply), FitsBlock r.content →
    ShowsResponse (responseOf code tag r).toList code tag r) ∧
  (∀ (u : RecordUnit) (req : UnitRequest), FitsBlock (carryOut u req).reply.content) ∧
  ∀ (s : State) (req : UnitRequest), s.inColdReset = false →
    (s.unit.inProgress = some (.command req false) →
      let c := carryOut s.unit req
      ∃ t, exec .commandComplete s = .next t ∧ t.gate = s.gate ∧ t.engine = s.engine ∧
        t.unit = { c.unit with inProgress := none } ∧
        t.port = { s.port with
          phase := .idle
          done := true
          responseBlock := responseOf (unitOpCode req.op) req.header.tag c.reply } ∧
        ShowsResponse t.port.responseBlock.toList (unitOpCode req.op) req.header.tag c.reply ∧
        t.bus.status = (s.bus.status ||| if c.attention then Source.attention.mask else 0) |||
          Source.commandDone.mask ∧
        Announced s t ∧ t.bus.enable = s.bus.enable ∧ t.bus.sent = s.bus.sent ∧
        t.readiness = s.readiness ∧ t.inColdReset = false ∧ t.fetchSerial = s.fetchSerial ∧
        t.pending = s.pending) ∧
    (s.unit.inProgress = some (.command req true) →
      ∃ t, exec .commandComplete s = .next t ∧ t.port = s.port ∧ t.gate = s.gate ∧
        t.engine = s.engine ∧ t.unit = { (carryOut s.unit req).unit with inProgress := none } ∧
        t.bus.status = (s.bus.status |||
          if (carryOut s.unit req).attention then Source.attention.mask else 0) ∧
        t.latched .commandDone = s.latched .commandDone ∧ Announced s t ∧
        t.bus.enable = s.bus.enable ∧ t.pending = s.pending)

/-! ## Requests on line records (R17 to R24, R86 to R90, R107, R108, R117, R118, R127, R130, R131,
R135, R162) -/

/-- A CREATE_LINE that fails a check is refused with the status of the first that fails, in the order
of R19, with slot 0 and version 0 and every record and table unchanged. An accepted one takes the slot
at the head of the ring, fills it with a new record, heads its key's chain with it, and moves the
counts of R20; nothing else of the Record Unit changes. -/
def Obligations.CreateLineMakesTheRecord : Prop :=
  (∀ (s : State) (h : Header) (a : CreateArgs) (status : Status), s.portFirst →
    firstFailure (createTable s.unit a) = some status →
      ∃ t, CarriesOut (.createLine h a) s t ∧
        Served s t h (.createLine a) (s.served s.unit) false ⟨status, 0, 0, []⟩) ∧
  ∀ (s : State) (h : Header) (a : CreateArgs) (region : Fin 64) (kind : ProcessKind)
    (profile : Fin 32) (lot : Option (Fin 64)), s.portFirst → KeyInRange a.site a.line →
    a.region.toNat = region.val → kindOfCode a.kind.toNat = some kind →
    a.profile.toNat = profile.val → s.unit.lookup a.site.toNat a.line.toNat = none →
    s.unit.ringHead ≠ s.unit.ringTail → s.unit.profiles[profile].kind = some kind →
    (lot = none ∧ a.lot = 0 ∨ ∃ i, lot = some i ∧ a.lot ≠ 0 ∧ s.unit.findLot a.lot = some i ∧
      s.unit.lots[i].state = .opened ∧ s.unit.lots[i].kind = some kind) →
      let u := s.unit
      let slot := u.ringAt u.ringHead
      let day := u.businessDay
      let bucket := bucketOf a.site.toNat a.line.toNat
      let r : LineRecord :=
        { slot := slot, site := a.site.toNat, lineNo := a.line.toNat, region := region,
          kind := kind, profile := profile, version := 0, creationDay := day, state := .new,
          closedDay := day, countdown := 0, missed := 0, lastReading := none, readingCount := 0,
          lot := lot, crossover := none, aims := none, baseline := none,
          stats := Vector.replicate 12 ⟨none, 0, 0, 0, ⟨false, false, false, false⟩⟩,
          level := .ok, ackLevel := .ok, lapseEvent := false, mismatchEvent := false,
          attention := false, marginal := false, snapshot := none }
      ∃ t, CarriesOut (.createLine h a) s t ∧
        Served s t h (.createLine a)
          (s.served { u with
            records := insertRecord r u.records
            index := u.index.set bucket.val (slot :: u.index[bucket]) bucket.isLt
            ringHead := (u.ringHead + 1) % 4096
            profiles := (addProfileUse u profile).profiles
            regions := (addLive u region).regions
            lots := match lot with | none => u.lots | some i => (addCurrentUser u i).lots })
          false ⟨.accepted, slot, 0, []⟩

/-- The common order of a request on a named record: a key or field out of range is refused
BAD_PARAMETER and a key not found NO_RECORD, with slot 0 and version 0 and nothing changed; a change
request whose expected version differs after catch-up is refused VERSION_MISMATCH, with slot, version
and content as they stand after catch-up, and leaves the record as catch-up left it (R17, R18, R157,
R162; which responses have state and attention is log 28). -/
def Obligations.NamedRequestsAreCheckedInOrder : Prop :=
  ∀ (s : State) (h : Header) (op : UnitOp) (site : Word) (line : Byte), s.portFirst →
    namedKey op = some (site, line) →
    let missing : List Field :=
      match op with
      | .setLineLot _ => [u8 0, u8 0xFF, u32 0]
      | _ => []
    (¬(KeyInRange site line ∧ OwnFieldsInRange op) →
      ∃ t, CarriesOut (rowOf h op) s t ∧
        Served s t h op (s.served s.unit) false ⟨.badParameter, 0, 0, missing⟩) ∧
    (KeyInRange site line → OwnFieldsInRange op →
      s.unit.lookup site.toNat line.toNat = none →
      ∃ t, CarriesOut (rowOf h op) s t ∧
        Served s t h op (s.served s.unit) false ⟨.noRecord, 0, 0, missing⟩) ∧
    ∀ r, KeyInRange site line → OwnFieldsInRange op →
      s.unit.lookup site.toNat line.toNat = some r → (∀ a, op ≠ .readLine a) →
      ¬VersionAgrees h (touch s.unit r).line →
      ∃ t, CarriesOut (rowOf h op) s t ∧
        Served s t h op (s.served (touch s.unit r).commit) (touch s.unit r).attention
          ⟨.versionMismatch, r.slot, (touch s.unit r).line.version,
            standingContent (touch s.unit r) op⟩

/-- READ_LINE changes its record through catch-up alone and reports its image, slot and version
whatever expected version the header carries; the image stands in the response block field by field, as
R194 lays it out; the record it shows is closed through the business day (R18, R21, R99, R194). -/
def Obligations.ReadLineShowsTheCaughtUpRecord : Prop :=
  ∀ (s : State) (h : Header) (a : KeyArgs) (r : LineRecord), s.portFirst →
    KeyInRange a.site a.line → s.unit.lookup a.site.toNat a.line.toNat = some r →
      let w := touch s.unit r
      (∃ t, CarriesOut (.readLine h a) s t ∧
        Served s t h (.readLine a) (s.served w.commit) w.attention
          ⟨.accepted, r.slot, w.line.version, imageFields w.unit.lots w.line⟩ ∧
        ShowsImage t.port.responseBlock.toList w.unit.lots w.line) ∧
      w.line.closedDay = max r.closedDay s.unit.businessDay ∧
      OnlyRecord r.slot s.unit w.commit

/-- An accepted RETIRE_LINE moves the counts of R22, takes the slot out of its chain, writes it at the
tail of the ring and frees it, and reports the slot and the version the record held; that it reports no
state or attention is the model's choice (log 28). -/
def Obligations.RetireLineFreesTheSlot : Prop :=
  ∀ (s : State) (h : Header) (a : KeyArgs) (r : LineRecord), s.portFirst →
    KeyInRange a.site a.line → s.unit.lookup a.site.toNat a.line.toNat = some r →
    VersionAgrees h (touch s.unit r).line →
      let w := touch s.unit r
      let x := w.line
      let u := w.unit
      let bucket := bucketOf x.site x.lineNo
      let v₁ := match x.lot with | none => u | some i => dropCurrentUser u i
      let v₂ := match x.crossover with | none => v₁ | some c => dropIncomingUser v₁ c.incoming
      let g := dropLive u x.region
      ∃ t, CarriesOut (.retireLine h a) s t ∧
        Served s t h (.retireLine a)
          (s.served { u with
            records := u.records.filter fun y => y.slot != r.slot
            index := u.index.set bucket.val (u.index[bucket].filter (· != r.slot)) bucket.isLt
            ring := u.ring.setIfInBounds u.ringTail r.slot
            ringTail := (u.ringTail + 1) % 4096
            profiles := (dropProfileUse u x.profile).profiles
            regions := (if x.attention then dropAttention g x.region else g).regions
            lots := v₂.lots })
          w.attention ⟨.accepted, r.slot, x.version, []⟩

/-- An accepted MOVE_LINE sets the region, moves the live count and, with attention set, the attention
count, latches ATTENTION where the new region's count passes from 0, and adds 1 to the version; to the
present region it adds 1 to the version and changes no count (R23, R162); that it reports no state or
attention is the model's choice (log 28). -/
def Obligations.MoveLineCarriesTheCounts : Prop :=
  ∀ (s : State) (h : Header) (a : MoveArgs) (r : LineRecord) (region : Fin 64), s.portFirst →
    KeyInRange a.site a.line → a.region.toNat = region.val →
    s.unit.lookup a.site.toNat a.line.toNat = some r → VersionAgrees h (touch s.unit r).line →
      let w := touch s.unit r
      let x := w.line
      let moved := decide (region ≠ x.region)
      let live := if moved then addLive (dropLive w.unit x.region) region else w.unit
      let u := if moved && x.attention then addAttention (dropAttention live x.region) region
        else live
      ∃ t, CarriesOut (.moveLine h a) s t ∧
        Served s t h (.moveLine a)
          (s.served (u.putRecord { x with region := region, version := x.version + 1 }))
          (w.attention || (moved && x.attention &&
            decide (w.unit.regions[region].attentionCount = 0)))
          ⟨.accepted, r.slot, x.version + 1,
            [u8 region.val, u16 u.regions[region].liveCount,
             u16 u.regions[region].attentionCount]⟩

/-- SET_LINE_PROFILE refuses NO_PROFILE for an UNSET profile, then WRONG_KIND for one of another kind;
accepted, it sets the profile number, moves the use counts and adds 1 to the version, and changes no
other field (R24, R162); that it reports no state or attention is the model's choice (log 28). -/
def Obligations.SetLineProfileMovesTheUse : Prop :=
  ∀ (s : State) (h : Header) (a : LineProfileArgs) (r : LineRecord) (profile : Fin 32),
    s.portFirst → KeyInRange a.site a.line → a.profile.toNat = profile.val →
    s.unit.lookup a.site.toNat a.line.toNat = some r → VersionAgrees h (touch s.unit r).line →
      let w := touch s.unit r
      let x := w.line
      (w.unit.profiles[profile].kind = some x.kind →
        let u := if profile = x.profile then w.unit
          else addProfileUse (dropProfileUse w.unit x.profile) profile
        ∃ t, CarriesOut (.setLineProfile h a) s t ∧
          Served s t h (.setLineProfile a)
            (s.served (u.putRecord { x with profile := profile, version := x.version + 1 }))
            w.attention
            ⟨.accepted, r.slot, x.version + 1, [u8 profile.val, u16 u.profiles[profile].useCount]⟩) ∧
      (w.unit.profiles[profile].kind ≠ some x.kind →
        ∃ t, CarriesOut (.setLineProfile h a) s t ∧
          Served s t h (.setLineProfile a) (s.served w.commit) w.attention
            ⟨if w.unit.profiles[profile].kind = none then .noProfile else .wrongKind, r.slot,
              x.version, [u8 x.profile.val, u16 w.unit.profiles[x.profile].useCount]⟩)

/-- SET_AIMS is refused by the first check of R86 that fails, leaving the record as catch-up left it;
accepted, it loads the aims, resets the statistics, drops baseline and snapshot, makes a NEW or
BASELINE record ACTIVE with the full interval and no misses, adds 1 to the version and recomputes
attention; every other field stands (R85 to R87). -/
def Obligations.SetAimsLoadsTheAims : Prop :=
  ∀ (s : State) (h : Header) (a : AimsArgs) (r : LineRecord), s.portFirst →
    KeyInRange a.site a.line → OwnFieldsInRange (.setAims a) →
    s.unit.lookup a.site.toNat a.line.toNat = some r → VersionAgrees h (touch s.unit r).line →
      let w := touch s.unit r
      let x := w.line
      (∀ status, firstFailure (aimsTable x a.aims) = some status →
        ∃ t, CarriesOut (.setAims h a) s t ∧
          Served s t h (.setAims a) (s.served w.commit) w.attention
            ⟨status, r.slot, x.version,
              [u8 x.state.code, u8 x.level.code, u8 x.ackLevel.code, flag x.attention]⟩) ∧
      (firstFailure (aimsTable x a.aims) = none →
        let attention := x.lapseEvent || x.mismatchEvent
        let y : LineRecord :=
          { x with
            aims := some (build12 fun i => a.aims[i].toInt)
            stats := Vector.replicate 12 ⟨none, 0, 0, 0, ⟨false, false, false, false⟩⟩
            level := .ok
            ackLevel := .ok
            baseline := none
            snapshot := none
            state := .active
            countdown := if x.state = .active then x.countdown
              else w.unit.profiles[x.profile].stripInterval
            missed := if x.state = .active then x.missed else 0
            version := x.version + 1
            attention := attention }
        ∃ t, CarriesOut (.setAims h a) s t ∧
          Served s t h (.setAims a)
            (s.served ((countFollows w.unit x.region x.attention attention).putRecord y))
            (w.attention || countPasses w.unit x.region x.attention attention)
            ⟨.accepted, r.slot, x.version + 1, [u8 2, u8 0, u8 0, flag attention]⟩)

/-- SET_LINE_LOT is refused by the first check of R130 that fails, leaving the record as catch-up left
it; accepted, it sets the current lot, moves the current-user counts, drops the snapshot, returns a
BASELINE record to NEW without its baseline, and adds 1 to the version; the rest stands (R131). That it
reports no attention is the model's choice (log 28). -/
def Obligations.SetLineLotMovesTheUser : Prop :=
  ∀ (s : State) (h : Header) (a : LineLotArgs) (r : LineRecord), s.portFirst →
    KeyInRange a.site a.line → a.lot ≠ 0 →
    s.unit.lookup a.site.toNat a.line.toNat = some r → VersionAgrees h (touch s.unit r).line →
      let w := touch s.unit r
      let x := w.line
      (∀ status, firstFailure (setLotTable w.unit x a.lot) = some status →
        ∃ t, CarriesOut (.setLineLot h a) s t ∧
          Served s t h (.setLineLot a) (s.served w.commit) w.attention
            ⟨status, r.slot, x.version, [u8 x.state.code, u8 (x.lot.elim 0xFF (·.val)),
              u32 (x.lot.elim 0 fun i => w.unit.lots[i].code.toNat)]⟩) ∧
      ∀ lot, firstFailure (setLotTable w.unit x a.lot) = none → w.unit.findLot a.lot = some lot →
        let u := match x.lot with
          | none => addCurrentUser w.unit lot
          | some old => if old = lot then w.unit
              else addCurrentUser (dropCurrentUser w.unit old) lot
        let state := if x.state = .baseline then .new else x.state
        let y : LineRecord :=
          { x with
            lot := some lot
            snapshot := none
            state := state
            baseline := if x.state = .baseline then none else x.baseline
            version := x.version + 1 }
        ∃ t, CarriesOut (.setLineLot h a) s t ∧
          Served s t h (.setLineLot a) (s.served (u.putRecord y)) w.attention
            ⟨.accepted, r.slot, x.version + 1, [u8 state.code, u8 lot.val, u32 a.lot.toNat]⟩

/-- START_CROSSOVER is refused by the first check of R117 that fails, leaving the record as catch-up
left it; accepted, it opens the crossover part at 0 of the profile's pairs with sums 0 and nothing
held, adds an incoming user to the lot, drops the snapshot and adds 1 to the version; the rest stands
(R118). CANCEL_CROSSOVER is refused BAD_STATE with no crossover open; accepted, it drops the part,
takes an incoming user from its lot and adds 1 to the version; the rest stands (R127). That neither
reports attention is the model's choice (log 28). -/
def Obligations.CrossoverRequestsOpenAndDropThePart : Prop :=
  (∀ (s : State) (h : Header) (a : KeyArgs) (r : LineRecord), s.portFirst →
    KeyInRange a.site a.line → s.unit.lookup a.site.toNat a.line.toNat = some r →
    VersionAgrees h (touch s.unit r).line →
      let w := touch s.unit r
      let x := w.line
      (x.crossover = none →
        ∃ t, CarriesOut (.cancelCrossover h a) s t ∧
          Served s t h (.cancelCrossover a) (s.served w.commit) w.attention
            ⟨.badState, r.slot, x.version, [u8 x.state.code, u8 0, u8 0]⟩) ∧
      ∀ c, x.crossover = some c →
        ∃ t, CarriesOut (.cancelCrossover h a) s t ∧
          Served s t h (.cancelCrossover a)
            (s.served ((dropIncomingUser w.unit c.incoming).putRecord
              { x with crossover := none, version := x.version + 1 }))
            w.attention ⟨.accepted, r.slot, x.version + 1, [u8 x.state.code, u8 0, u8 0]⟩) ∧
  ∀ (s : State) (h : Header) (a : LineLotArgs) (r : LineRecord), s.portFirst →
    KeyInRange a.site a.line → a.lot ≠ 0 →
    s.unit.lookup a.site.toNat a.line.toNat = some r → VersionAgrees h (touch s.unit r).line →
      let w := touch s.unit r
      let x := w.line
      let pairs := w.unit.profiles[x.profile].crossoverPairs
      (∀ status, firstFailure (crossoverTable w.unit x a.lot) = some status →
        ∃ t, CarriesOut (.startCrossover h a) s t ∧
          Served s t h (.startCrossover a) (s.served w.commit) w.attention
            ⟨status, r.slot, x.version, [u8 x.state.code, u8 (x.crossover.elim 0 (·.pairsDone)),
              u8 (x.crossover.elim 0 (·.pairsRequired))]⟩) ∧
      ∀ lot, firstFailure (crossoverTable w.unit x a.lot) = none →
        w.unit.findLot a.lot = some lot →
        ∃ t, CarriesOut (.startCrossover h a) s t ∧
          Served s t h (.startCrossover a)
            (s.served ((addIncomingUser w.unit lot).putRecord
              { x with
                crossover := some ⟨lot, pairs, 0, Vector.replicate 12 0, none⟩
                snapshot := none
                version := x.version + 1 }))
            w.attention ⟨.accepted, r.slot, x.version + 1, [u8 2, u8 0, u8 pairs]⟩

/-- ACKNOWLEDGE is accepted in every state: the acknowledged level becomes the level, the events are
emptied, attention is clear and its region's count falls where it was set, and the version gains 1;
the rest stands (R135). -/
def Obligations.AcknowledgeClearsAttention : Prop :=
  ∀ (s : State) (h : Header) (a : KeyArgs) (r : LineRecord), s.portFirst →
    KeyInRange a.site a.line → s.unit.lookup a.site.toNat a.line.toNat = some r →
    VersionAgrees h (touch s.unit r).line →
      let w := touch s.unit r
      let x := w.line
      let u := if x.attention then dropAttention w.unit x.region else w.unit
      ∃ t, CarriesOut (.acknowledge h a) s t ∧
        Served s t h (.acknowledge a)
          (s.served (u.putRecord
            { x with
              ackLevel := x.level
              lapseEvent := false
              mismatchEvent := false
              attention := false
              version := x.version + 1 }))
          w.attention
          ⟨.accepted, r.slot, x.version + 1,
            [u8 x.state.code, u8 x.level.code, u8 x.level.code, u8 0,
             u16 u.regions[x.region].attentionCount]⟩

/-- CLEAR_DRIFT is refused BAD_STATE outside ACTIVE; accepted, on every plot point of the kind the
sums and run are 0, DRIFT and TREND clear, SHIFT and EXCURSION evaluated from the last deviation
against A and W; the level is derived, the acknowledged level follows it down, the snapshot is
dropped, the version gains 1 and attention is recomputed; the rest stands (R89, R90). -/
def Obligations.ClearDriftZeroesTheSums : Prop :=
  ∀ (s : State) (h : Header) (a : KeyArgs) (r : LineRecord), s.portFirst →
    KeyInRange a.site a.line → s.unit.lookup a.site.toNat a.line.toNat = some r →
    VersionAgrees h (touch s.unit r).line →
      let w := touch s.unit r
      let x := w.line
      (x.state ≠ .active →
        ∃ t, CarriesOut (.clearDrift h a) s t ∧
          Served s t h (.clearDrift a) (s.served w.commit) w.attention
            ⟨.badState, r.slot, x.version,
              [u8 x.state.code, u8 x.level.code, u8 x.ackLevel.code, flag x.attention]⟩) ∧
      (x.state = .active →
        let stats : Points PointStats := build12 fun i =>
          if isPoint x.kind i then
            let l := w.unit.profiles[x.profile].limits[quantityOf i]
            let d := x.stats[i].lastDev
            { lastDev := d, cusumHigh := 0, cusumLow := 0, run := 0
              flags :=
                { shift := d.any fun d => decide (l.a < d.natAbs)
                  excursion := d.any fun d => decide (l.w < d.natAbs ∧ d.natAbs ≤ l.a)
                  trend := false
                  drift := false } }
          else x.stats[i]
        let level := statsLevel stats
        let ack := x.ackLevel.min level
        let attention := decide (ack.code < level.code) || x.lapseEvent || x.mismatchEvent
        ∃ t, CarriesOut (.clearDrift h a) s t ∧
          Served s t h (.clearDrift a)
            (s.served ((countFollows w.unit x.region x.attention attention).putRecord
              { x with
                stats := stats
                level := level
                ackLevel := ack
                snapshot := none
                attention := attention
                version := x.version + 1 }))
            (w.attention || countPasses w.unit x.region x.attention attention)
            ⟨.accepted, r.slot, x.version + 1,
              [u8 2, u8 level.code, u8 ack.code, flag attention]⟩)

/-- REINSTATE is refused BAD_STATE outside LAPSED; accepted, the record is REINSTATING with the
profile's strip interval loaded, no misses and 1 more on its version; everything else of it and every
count stands (R107, R108). -/
def Obligations.ReinstateLoadsTheInterval : Prop :=
  ∀ (s : State) (h : Header) (a : KeyArgs) (r : LineRecord), s.portFirst →
    KeyInRange a.site a.line → s.unit.lookup a.site.toNat a.line.toNat = some r →
    VersionAgrees h (touch s.unit r).line →
      let w := touch s.unit r
      let x := w.line
      let interval := w.unit.profiles[x.profile].stripInterval
      (x.state ≠ .lapsed →
        ∃ t, CarriesOut (.reinstate h a) s t ∧
          Served s t h (.reinstate a) (s.served w.commit) w.attention
            ⟨.badState, r.slot, x.version,
              [u8 x.state.code, u8 x.level.code, u8 x.ackLevel.code, flag x.attention,
               u8 x.countdown, u8 x.missed]⟩) ∧
      (x.state = .lapsed →
        ∃ t, CarriesOut (.reinstate h a) s t ∧
          Served s t h (.reinstate a)
            (s.served (w.unit.putRecord
              { x with
                state := .reinstating
                countdown := interval
                missed := 0
                version := x.version + 1 }))
            w.attention
            ⟨.accepted, r.slot, x.version + 1,
              [u8 4, u8 x.level.code, u8 x.ackLevel.code, flag x.attention, u8 interval, u8 0]⟩)

/-! ## Readings (R46 to R66, R69 to R85, R119 to R125, R161) -/

/-- A reading whose key is not found is refused NO_RECORD and changes nothing; one whose record is found
is refused with the status of the first check of R49 that fails, leaving the record as catch-up left
it, with the verdict of R53; one that fails none is accepted (R48 to R53). A reading's fields are those
R191 lays out in its 48 bytes. -/
def Obligations.ReadingStatusIsTheFirstFailingCheck : Prop :=
  (∀ raw : RawReading, ReadsRecord raw (parseReading raw)) ∧
  ∀ (s : State) (h : Header) (raw : RawReading), s.portFirst → checkPasses raw = true →
    let rd := parseReading raw
    (s.unit.lookup rd.site.toNat rd.line.toNat = none →
      ∃ t, CarriesOut (.submitReading h raw) s t ∧
        Served s t h (.submitReading raw) (s.served s.unit) false
          ⟨.noRecord, 0, 0, (Verdict.noRecord rd .noRecord).fields⟩) ∧
    ∀ r, s.unit.lookup rd.site.toNat rd.line.toNat = some r →
      let w := touch s.unit r
      let x := w.line
      (∀ status, firstFailure (admissionTable w.unit x rd) = some status →
        let v : Verdict :=
          { hostTag := rd.hostTag, site := rd.site, line := rd.line, status := status,
            outcome := .none, state := x.state, slot := r.slot, version := x.version,
            level := x.level, ackLevel := x.ackLevel, attention := x.attention,
            newAction := false, newKinds := ⟨false, false, false, false⟩, worst := worstPoint x,
            pairsDone := x.crossover.elim 0 (·.pairsDone),
            pairsRequired := x.crossover.elim 0 (·.pairsRequired), countdown := x.countdown }
        ∃ t, CarriesOut (.submitReading h raw) s t ∧
          Served s t h (.submitReading raw) (s.served w.commit) w.attention
            ⟨status, r.slot, x.version, v.fields⟩) ∧
      (firstFailure (admissionTable w.unit x rd) = none →
        ∃ t u attention version content, CarriesOut (.submitReading h raw) s t ∧
          Served s t h (.submitReading raw) (s.served u) attention
            ⟨.accepted, r.slot, version, content⟩)

/-- An accepted reading of an ACTIVE record with no crossover: with REPLACE clear the snapshot is taken
first where its day is the business day and none is left where it is earlier, with REPLACE set the
snapshot's statistics and level are restored; then every point is graded, the level derived, the
acknowledged level follows it down, and the effects of R62 are made; nothing else changes (R58, R59,
R62, R63, R71). -/
def Obligations.ActiveReadingIsGraded : Prop :=
  ∀ (s : State) (h : Header) (raw : RawReading) (r : LineRecord) (lot : Fin 64)
    (aims : Points Int), s.portFirst → checkPasses raw = true →
    let rd := parseReading raw
    let w := touch s.unit r
    let x := w.line
    s.unit.lookup rd.site.toNat rd.line.toNat = some r →
    firstFailure (admissionTable w.unit x rd) = none → w.unit.findLot rd.lotCode = some lot →
    x.state = .active → x.crossover = none → x.aims = some aims →
      let ready : LineRecord :=
        if rd.replace then
          { x with
            stats := x.snapshot.elim x.stats (·.stats)
            level := x.snapshot.elim x.level (·.level) }
        else
          { x with
            snapshot := if rd.day = w.unit.businessDay then some ⟨rd.day, lot, x.stats, x.level⟩
              else none }
      let y := afterEvaluation w.profile.stripInterval w.unit.businessDay rd.day
        (gradedLine w.profile aims (correctedBy w.unit x.kind lot rd) ready)
      let v := recordVerdict rd .accepted (if rd.replace then .replaced else .none) x y (0, 0)
      ∃ t, CarriesOut (.submitReading h raw) s t ∧
        Served s t h (.submitReading raw)
          (s.served ((countFollows w.unit x.region x.attention y.attention).putRecord y))
          (w.attention || countPasses w.unit x.region x.attention y.attention)
          ⟨.accepted, r.slot, y.version, v.fields⟩

/-- An accepted reading of a NEW or BASELINE record adds its corrected values to the sums and 1 to the
readings taken, and at the profile's baseline count forms the aims as rounded means, drops the
baseline and makes the record ACTIVE with its statistics reset, without grading; one of a REINSTATING
record resets the statistics, grades against the kept aims and makes it ACTIVE, without a snapshot;
each makes the effects of R62 (R55 to R57, R62, R82 to R85). -/
def Obligations.FirstReadingsMakeARecordActive : Prop :=
  ∀ (s : State) (h : Header) (raw : RawReading) (r : LineRecord) (lot : Fin 64),
    s.portFirst → checkPasses raw = true →
    let rd := parseReading raw
    let w := touch s.unit r
    let x := w.line
    let values := correctedBy w.unit x.kind lot rd
    let fresh : Points PointStats :=
      Vector.replicate 12 ⟨none, 0, 0, 0, ⟨false, false, false, false⟩⟩
    s.unit.lookup rd.site.toNat rd.line.toNat = some r →
    firstFailure (admissionTable w.unit x rd) = none → w.unit.findLot rd.lotCode = some lot →
    x.crossover = none →
      ∀ (ready : LineRecord) (outcome : ReadingOutcome),
        ((∃ taken sums,
            (x.state = .new ∧ taken = 1 ∧ sums = values ∨
              x.state = .baseline ∧ ∃ b, x.baseline = some b ∧ taken = b.taken + 1 ∧
                sums = build12 fun i => b.sums[i] + values[i]) ∧
            (w.profile.baselineCount ≤ taken ∧ outcome = .baselineDone ∧
                ready =
                  { x with
                    aims := some (build12 fun i => roundMean sums[i] taken)
                    baseline := none, state := .active, missed := 0, stats := fresh, level := .ok
                    ackLevel := .ok } ∨
              taken < w.profile.baselineCount ∧ outcome = .baselineTaken ∧
                ready = { x with state := .baseline, baseline := some ⟨taken, sums⟩ })) ∨
          ∃ aims, x.state = .reinstating ∧ x.aims = some aims ∧ outcome = .reinstated ∧
            ready = gradedLine w.profile aims values
              { x with stats := fresh, level := .ok, ackLevel := .ok, state := .active }) →
        let y := afterEvaluation w.profile.stripInterval w.unit.businessDay rd.day ready
        let v := recordVerdict rd .accepted outcome x y (0, 0)
        ∃ t, CarriesOut (.submitReading h raw) s t ∧
          Served s t h (.submitReading raw)
            (s.served ((countFollows w.unit x.region x.attention y.attention).putRecord y))
            (w.attention || countPasses w.unit x.region x.attention y.attention)
            ⟨.accepted, r.slot, y.version, v.fields⟩

/-- An accepted crossover reading of either side that finds nothing held is held on its side, with
outcome HELD for NEW and NONE for OLD; one that finds the other side held for its day while a lot of
the crossover is WITHDRAWN leaves the held reading and forms no pair, with outcome NONE. The OLD side
is graded and evaluated before, the NEW side only advances the version (R60, R61, R119 to R121;
attention before the meeting is log 10). -/
def Obligations.CrossoverReadingIsHeldOrBlocked : Prop :=
  ∀ (s : State) (h : Header) (raw : RawReading) (r : LineRecord) (lot current : Fin 64)
    (c : Crossover) (side : Side) (aims : Points Int), s.portFirst → checkPasses raw = true →
    let rd := parseReading raw
    let w := touch s.unit r
    let x := w.line
    let values := correctedBy w.unit x.kind lot rd
    let y := beforeMeeting w side rd.day aims values
    s.unit.lookup rd.site.toNat rd.line.toNat = some r →
    firstFailure (admissionTable w.unit x rd) = none → w.unit.findLot rd.lotCode = some lot →
    x.state = .active → x.crossover = some c → x.lot = some current → x.aims = some aims →
    (side = .old ∧ lot = current ∨ side = .new ∧ lot ≠ current) →
      let answered (z : LineRecord) (outcome : ReadingOutcome) : Prop :=
        ∃ t, CarriesOut (.submitReading h raw) s t ∧
          Served s t h (.submitReading raw)
            (s.served ((countFollows w.unit x.region x.attention z.attention).putRecord z))
            (w.attention || countPasses w.unit x.region x.attention z.attention)
            ⟨.accepted, r.slot, z.version,
              (recordVerdict rd .accepted outcome x z (c.pairsDone, c.pairsRequired)).fields⟩
      (c.held = none →
        answered { y with crossover := some { c with held := some ⟨side, rd.day, values⟩ } }
          (if side = .new then .held else .none)) ∧
      ∀ held, c.held = some held → held.side ≠ side → held.day = rd.day →
        (w.unit.lots[c.incoming].state ≠ .opened ∨ w.unit.lots[current].state ≠ .opened) →
          answered y .none

/-- A crossover reading that meets the other side held for its day, with both lots OPEN, completes the
pair: NEW less OLD goes into the sums, pairs done gains 1 and nothing is held. The last pair completes
the crossover: where every mean difference is within its tolerance the incoming lot becomes current
and the lot counts follow, outcome SWITCHED; else the part is dropped, MISMATCH is added and attention
set, outcome MISMATCH (R120 to R125). That the OLD side's attention is recomputed before the pair, and
again at the MISMATCH, is the model's reading of R120 (log 10). -/
def Obligations.LastPairDecidesTheLot : Prop :=
  ∀ (s : State) (h : Header) (raw : RawReading) (r : LineRecord) (lot current : Fin 64)
    (c : Crossover) (held : Held) (side : Side) (aims : Points Int), s.portFirst →
    checkPasses raw = true →
    let rd := parseReading raw
    let w := touch s.unit r
    let x := w.line
    let values := correctedBy w.unit x.kind lot rd
    let y := beforeMeeting w side rd.day aims values
    let sums := if side = .new then sumsAfter c values held.values
      else sumsAfter c held.values values
    let within := ∀ i : Fin 12, isPoint x.kind i = true →
      (roundMean sums[i] c.pairsRequired).natAbs ≤ w.profile.limits[quantityOf i].tolerance
    let u := countFollows w.unit x.region x.attention y.attention
    let passed := w.attention || countPasses w.unit x.region x.attention y.attention
    s.unit.lookup rd.site.toNat rd.line.toNat = some r →
    firstFailure (admissionTable w.unit x rd) = none → w.unit.findLot rd.lotCode = some lot →
    x.state = .active → x.crossover = some c → x.lot = some current → x.aims = some aims →
    (side = .old ∧ lot = current ∨ side = .new ∧ lot ≠ current) →
    c.held = some held → held.side ≠ side → held.day = rd.day →
    w.unit.lots[c.incoming].state = .opened → w.unit.lots[current].state = .opened →
      let answered (v : RecordUnit) (attention : Bool) (z : LineRecord)
          (outcome : ReadingOutcome) (progress : Nat × Nat) : Prop :=
        ∃ t, CarriesOut (.submitReading h raw) s t ∧
          Served s t h (.submitReading raw) (s.served (v.putRecord z)) attention
            ⟨.accepted, r.slot, z.version, (recordVerdict rd .accepted outcome x z progress).fields⟩
      (c.pairsDone + 1 ≠ c.pairsRequired →
        answered u passed
          { y with
            crossover := some { c with sums := sums, pairsDone := c.pairsDone + 1, held := none } }
          .paired (c.pairsDone + 1, c.pairsRequired)) ∧
      (c.pairsDone + 1 = c.pairsRequired → within →
        answered
          (addCurrentUser (dropIncomingUser (dropCurrentUser u current) c.incoming) c.incoming)
          passed { y with lot := some c.incoming, crossover := none } .switched
          (c.pairsRequired, c.pairsRequired)) ∧
      (c.pairsDone + 1 = c.pairsRequired → ¬within →
        answered (countFollows (dropIncomingUser u c.incoming) x.region y.attention true)
          (passed || countPasses u x.region y.attention true)
          { y with crossover := none, mismatchEvent := true, attention := true } .mismatch
          (c.pairsRequired, c.pairsRequired))

/-- One point's grading: the deviation is corrected value less aim; each sum moves by the deviation
less k, bounded to 0 to 32767; the run counts by the table of R75; SHIFT above A, EXCURSION above W
and at most A, TREND at or above the run limit, DRIFT when a sum is above h or it was set; the level
of the point is the highest among its flags (R72, R73, R75 to R79). A grading grades every plot point of
the kind so, by its own quantity's limits and its own values, and leaves the spare positions of a MONO
record (R71); the record's level is the highest point level (R80); a plot value is the BASE, LOW or MAX
density of its channel, or HIGH less LOW (R69). -/
def Obligations.PointGradingFollowsTheRules : Prop :=
  (∀ (pr : Profile) (kind : ProcessKind) (aims corrected : Points Int) (stats : Points PointStats)
    (quantity : Fin 4) (channel : Fin 3) (i : Fin 12), i.val = 3 * quantity.val + channel.val →
    (gradeStats pr kind aims corrected stats)[i] =
      if kind = .mono ∧ channel ≠ 1 then stats[i]
      else gradePoint pr.limits[quantity] pr.runLimit aims[i] corrected[i] stats[i]) ∧
  (∀ stats : Points PointStats,
    (∀ i : Fin 12, stats[i].flags.level.code ≤ (statsLevel stats).code) ∧
      ∃ i : Fin 12, stats[i].flags.level = statsLevel stats) ∧
  (∀ (rd : Reading) (quantity : Fin 4) (channel : Fin 3) (i : Fin 12),
    i.val = 3 * quantity.val + channel.val →
    let base : Int := rd.densities[channel.val].toNat
    let low : Int := rd.densities[3 + channel.val].toNat
    let high : Int := rd.densities[6 + channel.val].toNat
    let max : Int := rd.densities[9 + channel.val].toNat
    plotValue rd i = match quantity with | 0 => base | 1 => low | 2 => high - low | 3 => max) ∧
  ∀ (l : Limits) (runLimit : Nat) (aim corrected : Int) (p : PointStats),
    let d := corrected - aim
    let q := gradePoint l runLimit aim corrected p
    q.lastDev = some d ∧
      (q.cusumHigh : Int) = max 0 (min 32767 (p.cusumHigh + d - l.k)) ∧
      (q.cusumLow : Int) = max 0 (min 32767 (p.cusumLow - d - l.k)) ∧
      (0 < d → 0 < p.run → q.run = min 15 (p.run + 1)) ∧ (0 < d → p.run ≤ 0 → q.run = 1) ∧
      (d < 0 → p.run < 0 → q.run = max (-15) (p.run - 1)) ∧ (d < 0 → 0 ≤ p.run → q.run = -1) ∧
      (d = 0 → q.run = 0) ∧
      (q.flags.shift = true ↔ l.a < d.natAbs) ∧
      (q.flags.excursion = true ↔ l.w < d.natAbs ∧ d.natAbs ≤ l.a) ∧
      (q.flags.trend = true ↔ runLimit ≤ q.run.natAbs) ∧
      (q.flags.drift = true ↔
        p.flags.drift = true ∨ l.h < q.cusumHigh ∨ l.h < q.cusumLow) ∧
      (q.flags.level = .action ↔ q.flags.shift = true ∨ q.flags.drift = true) ∧
      (q.flags.level = .ok ↔ q.flags = ⟨false, false, false, false⟩)

/-- A mean is the sum over the count rounded to the nearest whole, halves away from zero: the magnitude
of its error is at most half the count, exactly half only away from zero, and it takes the sum's sign;
baseline aims and crossover mean differences are formed so (R83). -/
def Obligations.MeanIsRoundedHalvesAwayFromZero : Prop :=
  (∀ (sum : Int) (count : Nat), 0 < count →
    let q := sum.natAbs / count
    let m := if count ≤ 2 * (sum.natAbs % count) then q + 1 else q
    roundMean sum count = (if 0 ≤ sum then (m : Int) else -(m : Int)) ∧
      2 * (sum - count * roundMean sum count).natAbs ≤ count ∧
      roundMean (-sum) count = -roundMean sum count) ∧
  (∀ (r : LineRecord) (b : Baseline) (i : Fin 12),
    (r.completeBaseline b).aims = some (build12 fun j => roundMean b.sums[j] b.taken) ∧
      (build12 fun j => roundMean b.sums[j] b.taken)[i] = roundMean b.sums[i] b.taken) ∧
  ∀ (pr : Profile) (kind : ProcessKind) (sums : Points Int) (required : Nat),
    crossoverMatches pr kind sums required = true ↔
      ∀ i : Fin 12, isPoint kind i = true →
        (roundMean sums[i] required).natAbs ≤ pr.limits[quantityOf i].tolerance

/-- The same reading on the same record gives one verdict by either route: SUBMIT_READING answers with
its 32 bytes at offsets 8 to 39 of the response block, and a batch reading has the same 32 bytes
written at FRONT's result address and the same effects on the Record Unit. Every verdict stands in its
bytes as R192 lays it out, and one on a record reports its state, level and counts at the end, the
new-action indicator, the new kinds and the worst point (R65, R66, R161, R172, R192). Which part of a
split verdict write comes first is log 31. -/
def Obligations.BothRoutesGiveOneVerdict : Prop :=
  (∀ v : Verdict, ShowsVerdict v.bytes v) ∧
  (∀ (rd : Reading) (status : Status) (outcome : ReadingOutcome) (start r : LineRecord)
    (progress : Nat × Nat),
    Reports (recordVerdict rd status outcome start r progress) rd status outcome start r
      progress) ∧
  ∀ (s b : State) (h : Header) (raw : RawReading) (f : Front), s.portFirst →
    checkPasses raw = true → b.inColdReset = false → b.bus.busMaster = true →
    b.unit = s.unit.start (.reading raw false) b.unit.arbiter → b.engine.front = some f →
      let g := carryReading s.unit raw
      g.verdict.bytes.length = 32 ∧
      (∃ t, CarriesOut (.submitReading h raw) s t ∧
        (t.port.responseBlock.toList.drop 8).take 32 = g.verdict.bytes ∧
        t.unit = s.served g.unit) ∧
      ∃ t, exec .batchReadingComplete b = .next t ∧
        t.unit = { g.unit with arbiter := b.unit.arbiter, inProgress := none } ∧
        ∃ messages, t.bus.outbound =
          b.bus.outbound ++ writeItems f.result g.verdict.bytes ++ messages

/-! ## Business day, sweep, survey and scans (R43, R44, R95 to R105, R112, R138 to R147) -/

/-- SET_REGION_HOLD sets a region's hold mode and leaves its closing mode; an accepted CLOSE_DAY sets
the day, captures every region's hold mode as its closing mode and starts the sweep at slot 1,
touching no record; a day out of range is refused BAD_PARAMETER and a running sweep WALK_ACTIVE
(R43, R44, R96, R97; the content of a SET_REGION_HOLD out of range is log 27). -/
def Obligations.CloseDayCapturesTheHoldModes : Prop :=
  ∀ (s : State) (h : Header), s.portFirst →
    (∀ (a : RegionHoldArgs) (region : Fin 64), a.region.toNat = region.val →
      (∀ mode, holdOfCode a.mode.toNat = some mode →
        ∃ t, CarriesOut (.setRegionHold h a) s t ∧
          Served s t h (.setRegionHold a)
            (s.served (s.unit.modifyRegion region fun g => { g with hold := mode })) false
            ⟨.accepted, 0, 0,
              [u8 region.val, u8 mode.code, u8 s.unit.regions[region].closing.code]⟩)) ∧
    (∀ a : RegionHoldArgs, 63 < a.region.toNat ∨ 2 < a.mode.toNat →
      ∃ t, CarriesOut (.setRegionHold h a) s t ∧
        Served s t h (.setRegionHold a) (s.served s.unit) false ⟨.badParameter, 0, 0, []⟩) ∧
    ∀ day : Half,
      (day.toNat ≤ s.unit.businessDay ∨ s.unit.businessDay + 7 < day.toNat →
        ∃ t, CarriesOut (.closeDay h day) s t ∧
          Served s t h (.closeDay day) (s.served s.unit) false
            ⟨.badParameter, 0, 0, [u16 s.unit.businessDay, flag s.unit.sweep.running]⟩) ∧
      (s.unit.businessDay < day.toNat → day.toNat ≤ s.unit.businessDay + 7 →
        s.unit.sweep.running = true →
        ∃ t, CarriesOut (.closeDay h day) s t ∧
          Served s t h (.closeDay day) (s.served s.unit) false
            ⟨.walkActive, 0, 0, [u16 s.unit.businessDay, u8 1]⟩) ∧
      (s.unit.businessDay < day.toNat → day.toNat ≤ s.unit.businessDay + 7 →
        s.unit.sweep.running = false →
        ∃ t, CarriesOut (.closeDay h day) s t ∧
          Served s t h (.closeDay day)
            (s.served { s.unit with
              businessDay := day.toNat
              regions := s.unit.regions.map fun g => { g with closing := g.hold }
              sweep := ⟨true, 1⟩ })
            false ⟨.accepted, 0, 0, [u16 day.toNat, u8 1]⟩)

/-- One day step drops the held reading and the snapshot and closes one day more. A record not counting,
or under HOLD, changes in nothing else; under HOLD_AT_DUE its countdown, brought down to the interval,
goes down to 1 at lowest; under RUN it goes down by 1, and at 0 a miss is counted and the interval
reloaded, or at the lapse limit the record lapses: LAPSED, countdown 0, LAPSE, the crossover cancelled
with its incoming user, version plus 1, attention set with its region's count and latch
(R101 to R105). Catch-up is one such step for each day by which the record's closed-through day is
behind the business day, and none for a record that is not behind (R99). -/
def Obligations.DayStepFollowsTheClosingMode : Prop :=
  (∀ (u : RecordUnit) (r : LineRecord),
    touch u r = Nat.repeat Touch.dayStep (u.businessDay - r.closedDay) ⟨r, u, false⟩) ∧
  ∀ t : Touch,
    let x : LineRecord :=
      { t.line with
        crossover := t.line.crossover.map fun c => { c with held := none }
        snapshot := none
        closedDay := t.line.closedDay + 1 }
    let pr := t.unit.profiles[t.line.profile]
    let mode := t.unit.regions[t.line.region].closing
    let counts := t.line.state = .active ∨ t.line.state = .reinstating
    let down := min t.line.countdown pr.stripInterval
    (¬counts ∨ mode = .hold → t.dayStep = ⟨x, t.unit, t.attention⟩) ∧
    (counts → mode = .holdAtDue →
      t.dayStep = ⟨{ x with countdown := if 1 < down then down - 1 else down }, t.unit,
        t.attention⟩) ∧
    (counts → mode = .run → 1 < down →
      t.dayStep = ⟨{ x with countdown := down - 1 }, t.unit, t.attention⟩) ∧
    (counts → mode = .run → down ≤ 1 → t.line.missed + 1 < pr.lapseLimit →
      t.dayStep = ⟨{ x with countdown := pr.stripInterval, missed := t.line.missed + 1 }, t.unit,
        t.attention⟩) ∧
    (counts → mode = .run → down ≤ 1 → pr.lapseLimit ≤ t.line.missed + 1 →
      let u := match t.line.crossover with
        | none => t.unit
        | some c => dropIncomingUser t.unit c.incoming
      t.dayStep =
        ⟨{ x with
            state := .lapsed, countdown := 0, missed := t.line.missed + 1, lapseEvent := true
            crossover := none, version := x.version + 1, attention := true },
          countFollows u t.line.region t.line.attention true,
          t.attention || countPasses t.unit t.line.region t.line.attention true⟩)

/-- A sweep step passes over free slots to the first live one at or above its pointer, catches that
record up and sets the pointer past it; past slot 4095, or with no live slot left, it makes the sweep
idle with pointer 0 and latches SWEEP_DONE. Port, gate and Batch Engine stand (R112). -/
def Obligations.SweepStepCatchesOneRecordUp : Prop :=
  ∀ s : State, s.inColdReset = false → s.unit.inProgress = some .sweepStep →
    let rest (t : State) : Prop :=
      t.port = s.port ∧ t.gate = s.gate ∧ t.engine = s.engine ∧ t.readiness = s.readiness ∧
        t.bus.enable = s.bus.enable ∧ Announced s t ∧ t.pending = s.pending
    ((∀ r ∈ s.unit.records, r.slot < s.unit.sweep.pointer) →
      ∃ t, exec .sweepStep s = .next t ∧ rest t ∧
        t.unit = { s.unit with sweep := ⟨false, 0⟩, inProgress := none } ∧
        t.bus.status = s.bus.status ||| Source.sweepDone.mask) ∧
    ∀ before after r, s.unit.records = before ++ r :: after →
      (∀ x ∈ before, x.slot < s.unit.sweep.pointer) → s.unit.sweep.pointer ≤ r.slot →
      let w := touch s.unit r
      let latch := if w.attention then Source.attention.mask else 0
      ∃ t, exec .sweepStep s = .next t ∧ rest t ∧
        (r.slot < 4095 →
          t.unit = { w.commit with
            sweep := { s.unit.sweep with pointer := r.slot + 1 }, inProgress := none } ∧
          t.bus.status = s.bus.status ||| latch) ∧
        (4095 ≤ r.slot →
          t.unit = { w.commit with sweep := ⟨false, 0⟩, inProgress := none } ∧
          t.bus.status = (s.bus.status ||| latch) ||| Source.sweepDone.mask)

/-- A survey step passes over free slots to the first live one at or above its pointer, catches that
record up, sets its mark exactly where it is ACTIVE and some plot point's deviation or sum is at or
above its margin limit, counts the visit and the mark, and sets the pointer past it; past slot 4095,
or with no live slot left, the survey is DONE with pointer 0 and SURVEY_DONE is latched
(R144, R145). -/
def Obligations.SurveyStepMarksByTheMargin : Prop :=
  ∀ s : State, s.inColdReset = false → s.unit.inProgress = some .surveyStep →
    let v := s.unit.survey
    let rest (t : State) : Prop :=
      t.port = s.port ∧ t.gate = s.gate ∧ t.engine = s.engine ∧ t.readiness = s.readiness ∧
        t.bus.enable = s.bus.enable ∧ Announced s t ∧ t.pending = s.pending
    ((∀ r ∈ s.unit.records, r.slot < v.pointer) →
      ∃ t, exec .surveyStep s = .next t ∧ rest t ∧
        t.unit = { s.unit with survey := { v with state := .done, pointer := 0 }, inProgress := none } ∧
        t.bus.status = s.bus.status ||| Source.surveyDone.mask) ∧
    ∀ before after r (marked : Bool), s.unit.records = before ++ r :: after →
      (∀ x ∈ before, x.slot < v.pointer) → v.pointer ≤ r.slot →
      let w := touch s.unit r
      let latch := if w.attention then Source.attention.mask else 0
      (marked = true ↔ w.line.state = .active ∧ ∃ i : Fin 12, isPoint w.line.kind i = true ∧
        let l := w.profile.limits[quantityOf i]
        let p := w.line.stats[i]
        ((∃ d, p.lastDev = some d ∧ l.a * v.margin / 100 ≤ d.natAbs) ∨
          l.h * v.margin / 100 ≤ p.cusumHigh ∨ l.h * v.margin / 100 ≤ p.cusumLow)) →
      let result : Survey :=
        { v with
          visited := v.visited + 1
          marked := if marked then v.marked + 1 else v.marked
          firstMarked := if marked = true ∧ v.firstMarked = 0 then r.slot else v.firstMarked }
      let u := w.unit.putRecord { w.line with marginal := marked }
      ∃ t, exec .surveyStep s = .next t ∧ rest t ∧
        (r.slot < 4095 →
          t.unit = { u with survey := { result with pointer := r.slot + 1 }, inProgress := none } ∧
          t.bus.status = s.bus.status ||| latch) ∧
        (4095 ≤ r.slot →
          t.unit = { u with
            survey := { result with state := .done, pointer := 0 }, inProgress := none } ∧
          t.bus.status = (s.bus.status ||| latch) ||| Source.surveyDone.mask)

/-- START_SURVEY with p of 50 to 99 and no survey RUNNING starts one at slot 1 with its result zeroed;
STOP_SURVEY makes a RUNNING one STOPPED with pointer 0, its result kept and its count at the arbiter
0; each refusal changes nothing and reports the survey as it stands (R143, R147); that a survey state's
byte is R179's register code is log 30. -/
def Obligations.SurveyStartsAndStops : Prop :=
  ∀ (s : State) (h : Header), s.portFirst →
    let v := s.unit.survey
    let report (v : Survey) : List Field :=
      [u8 (match v.state with | .noResult => 0 | .running => 1 | .done => 2 | .stopped => 3),
       u8 v.margin, u16 v.visited, u16 v.marked, u16 v.firstMarked]
    (∀ p : Byte,
      (p.toNat < 50 ∨ 99 < p.toNat →
        ∃ t, CarriesOut (.startSurvey h p) s t ∧
          Served s t h (.startSurvey p) (s.served s.unit) false ⟨.badParameter, 0, 0, report v⟩) ∧
      (50 ≤ p.toNat → p.toNat ≤ 99 → v.state = .running →
        ∃ t, CarriesOut (.startSurvey h p) s t ∧
          Served s t h (.startSurvey p) (s.served s.unit) false ⟨.walkActive, 0, 0, report v⟩) ∧
      (50 ≤ p.toNat → p.toNat ≤ 99 → v.state ≠ .running →
        ∃ t, CarriesOut (.startSurvey h p) s t ∧
          Served s t h (.startSurvey p)
            (s.served { s.unit with survey := ⟨.running, p.toNat, 1, 0, 0, 0⟩ }) false
            ⟨.accepted, 0, 0, report ⟨.running, p.toNat, 1, 0, 0, 0⟩⟩)) ∧
    (v.state ≠ .running →
      ∃ t, CarriesOut (.stopSurvey h) s t ∧
        Served s t h .stopSurvey (s.served s.unit) false ⟨.badState, 0, 0, report v⟩) ∧
    (v.state = .running →
      let stopped : Survey := { v with state := .stopped, pointer := 0 }
      ∃ t, CarriesOut (.stopSurvey h) s t ∧
        Served s t h .stopSurvey
          { s.served { s.unit with survey := stopped } with
            arbiter := { s.afterGrant with surveyCount := 0 } }
          false ⟨.accepted, 0, 0, report stopped⟩)

/-- A SCAN_LINES whose start slot, region, state set, minimum level or maximum is out of range is
refused BAD_PARAMETER and visits nothing. An accepted one visits the live slots upward from its start,
catching each up, and reports those that pass every term of the filter after their catch-up; it stops
at the record that brings the matches to the maximum and otherwise visits every one; END is set, with
resume slot 0, exactly when it did not stop below slot 4095; ATTENTION is latched exactly where some
catch-up latches it (R138 to R140, R193). The premise rules out tables with two records in one
slot. -/
def Obligations.ScanReportsTheMatchesInOrder : Prop :=
  ∀ (s : State) (h : Header) (a : ScanArgs), s.portFirst → TableInv s →
    let outOfRange := a.start.toNat = 0 ∨ 4095 < a.start.toNat ∨
      63 < a.region.toNat ∧ a.region.toNat ≠ 0xFF ∨ a.states.toNat = 0 ∨ 31 < a.states.toNat ∨
      2 < a.minLevel.toNat ∨ a.maximum.toNat = 0 ∨ 30 < a.maximum.toNat
    let passes (x : LineRecord) : Bool := decide (
      (a.region.toNat = 0xFF ∨ a.region.toNat = x.region.val) ∧
        a.states.getLsbD x.state.code = true ∧ a.minLevel.toNat ≤ x.level.code ∧
        (a.attentionOnly.getLsbD 0 = true → x.attention = true) ∧
        (a.marginalOnly.getLsbD 0 = true → x.marginal = true))
    let entry (x : LineRecord) : List Field :=
      let word := x.site % 2 ^ 20 + 2 ^ 20 * (x.lineNo % 8) + 2 ^ 23 * x.state.code +
        2 ^ 26 * x.level.code + 2 ^ 28 * x.attention.toNat + 2 ^ 29 * x.marginal.toNat
      [u16 x.slot, u16 (word % 65536), u16 (word / 65536)]
    (outOfRange →
      ∃ t, CarriesOut (.scanLines h a) s t ∧
        Served s t h (.scanLines a) (s.served s.unit) false ⟨.badParameter, 0, 0, []⟩) ∧
    (¬outOfRange →
      ∃ visited rest t,
        (s.unit.records.filter fun r => decide (a.start.toNat ≤ r.slot)) = visited ++ rest ∧
        let u := walked s.unit visited
        let found := (visited.filterMap fun r => u.recordAt r.slot).filter passes
        let stop := if found.length = a.maximum.toNat then visited.getLast?.elim 0 (·.slot) else 0
        let resume := if stop = 0 ∨ stop = 4095 then 0 else stop + 1
        found.length ≤ a.maximum.toNat ∧
          (found.length < a.maximum.toNat → rest = []) ∧
          (found.length = a.maximum.toNat → ∃ r x, visited.getLast? = some r ∧
            u.recordAt r.slot = some x ∧ passes x = true) ∧
          CarriesOut (.scanLines h a) s t ∧
          Served s t h (.scanLines a) (s.served u) (walkLatches s.unit visited)
            ⟨.accepted, 0, 0,
              [u8 found.length, flag (resume == 0), u16 visited.length, u16 resume, u16 0] ++
                (found.map entry).flatten⟩)

/-! ## Tables and polls (R28, R29, R33, R34, R38 to R41, R45, R137) -/

/-- READ_PROFILE, READ_LOT and READ_REGION report their entry in any gate state and change nothing; a
number out of range is refused BAD_PARAMETER and a lot code not found UNKNOWN_LOT, with every field of
the entry 0; a READ_PROFILE reports the freeze either way (R33, R34, R41, R45, R157; that a number above
31 reports number 0 is log 12, that the parameters stand in WRITE_PROFILE's order is log 32). REGION_POLL reports a map whose bit r shows whether region r's attention
count is nonzero, and the 64 counts, and changes nothing (R137). -/
def Obligations.TableReadsReportAndChangeNothing : Prop :=
  ∀ (s : State) (h : Header), s.portFirst →
    (∀ n : Byte,
      let answered (status : Status) (number : Nat) (p : Profile) : Prop :=
        let group (q : Fin 4) : List Field :=
          [u16 p.limits[q].w, u16 p.limits[q].a, u16 p.limits[q].k, u16 p.limits[q].h,
           u16 p.limits[q].tolerance]
        ∃ t, CarriesOut (.readProfile h n) s t ∧
          Served s t h (.readProfile n) (s.served s.unit) false
            ⟨status, 0, 0,
              [u8 number, u8 (kindCode p.kind), u8 p.runLimit, u8 p.baselineCount,
               u8 p.stripInterval, u8 p.lapseLimit, u8 p.crossoverPairs] ++
                group 0 ++ group 1 ++ group 2 ++ group 3 ++ [u16 p.useCount, flag s.unit.freeze]⟩
      (31 < n.toNat → answered .badParameter 0
        { kind := none, runLimit := 0, baselineCount := 0, stripInterval := 0, lapseLimit := 0
          crossoverPairs := 0, limits := Vector.replicate 4 ⟨0, 0, 0, 0, 0⟩, useCount := 0 }) ∧
      ∀ i : Fin 32, n.toNat = i.val → answered .accepted i.val s.unit.profiles[i]) ∧
    (∀ a : ReadLotArgs,
      (a.lot ≠ 0 → s.unit.findLot a.lot = none → ∃ t, CarriesOut (.readLot h a) s t ∧
        Served s t h (.readLot a) (s.served s.unit) false ⟨.unknownLot, 0, 0, []⟩) ∧
      (a.lot = 0 → 63 < a.entry.toNat → ∃ t, CarriesOut (.readLot h a) s t ∧
        Served s t h (.readLot a) (s.served s.unit) false ⟨.badParameter, 0, 0, []⟩) ∧
      ∀ i : Fin 64,
        (a.lot ≠ 0 ∧ s.unit.findLot a.lot = some i ∨ a.lot = 0 ∧ a.entry.toNat = i.val) →
        let l := s.unit.lots[i]
        ∃ t, CarriesOut (.readLot h a) s t ∧
          Served s t h (.readLot a) (s.served s.unit) false
            ⟨.accepted, 0, 0,
              [u8 i.val, u8 l.state.code, u32 l.code.toNat, u8 (kindCode l.kind)] ++
                (points.map fun j => s16 l.offsets[j]) ++
                [u16 l.currentUsers, u16 l.incomingUsers]⟩) ∧
    (∀ n : Byte,
      (63 < n.toNat → ∃ t, CarriesOut (.readRegion h n) s t ∧
        Served s t h (.readRegion n) (s.served s.unit) false ⟨.badParameter, 0, 0, []⟩) ∧
      ∀ i : Fin 64, n.toNat = i.val →
        let g := s.unit.regions[i]
        ∃ t, CarriesOut (.readRegion h n) s t ∧
          Served s t h (.readRegion n) (s.served s.unit) false
            ⟨.accepted, 0, 0,
              [u8 i.val, u8 g.hold.code, u8 g.closing.code, u16 g.liveCount,
               u16 g.attentionCount]⟩) ∧
    ∃ t map counts, CarriesOut (.regionPoll h) s t ∧
      Served s t h .regionPoll (s.served s.unit) false ⟨.accepted, 0, 0, u64 map :: counts⟩ ∧
      (∀ r : Fin 64, map.testBit r.val = decide (s.unit.regions[r].attentionCount ≠ 0)) ∧
      map < 2 ^ 64 ∧ counts.length = 64 ∧
      ∀ r : Fin 64, counts[r.val]? = some (u16 s.unit.regions[r].attentionCount)

/-- With the gate OPEN, WRITE_PROFILE is refused by the first check of R28 that fails, leaving the entry
as it stood and reporting it; accepted, it replaces the whole entry but for its use count, a write of
NONE leaving it UNSET with every parameter 0, and touches nothing else; FREEZE_PROFILES sets the freeze
in every case (R26, R28, R29, R34). A number above 31 reports kind and count 0 (log 12). -/
def Obligations.ProfileWritesReplaceTheEntry : Prop :=
  ∀ (s : State) (h : Header), s.portFirst → s.gate = .opened →
    (∃ t, CarriesOut (.freezeProfiles h) s t ∧
      Served s t h .freezeProfiles (s.served { s.unit with freeze := true }) false
        ⟨.accepted, 0, 0, [u8 1]⟩) ∧
    ∀ a : WriteProfileArgs,
      (31 < a.profile.toNat → ∃ t, CarriesOut (.writeProfile h a) s t ∧
        Served s t h (.writeProfile a) (s.served s.unit) false
          ⟨.badParameter, 0, 0, [u8 a.profile.toNat, u8 0, u16 0]⟩) ∧
      ∀ i : Fin 32, a.profile.toNat = i.val →
        let entry := s.unit.profiles[i]
        (∀ status, firstFailure (profileTable s.unit entry a) = some status →
          ∃ t, CarriesOut (.writeProfile h a) s t ∧
            Served s t h (.writeProfile a) (s.served s.unit) false
              ⟨status, 0, 0, [u8 i.val, u8 (kindCode entry.kind), u16 entry.useCount]⟩) ∧
        (firstFailure (profileTable s.unit entry a) = none →
          let written : Profile :=
            if a.kind.toNat = 0 then
              { kind := none, runLimit := 0, baselineCount := 0, stripInterval := 0, lapseLimit := 0
                crossoverPairs := 0, limits := Vector.replicate 4 ⟨0, 0, 0, 0, 0⟩
                useCount := entry.useCount }
            else
              { kind := kindOfCode a.kind.toNat, runLimit := a.runLimit.toNat
                baselineCount := a.baselineCount.toNat, stripInterval := a.stripInterval.toNat
                lapseLimit := a.lapseLimit.toNat, crossoverPairs := a.crossoverPairs.toNat
                limits := build4 fun q =>
                  ⟨a.limits[q].w.toNat, a.limits[q].a.toNat, a.limits[q].k.toNat,
                    a.limits[q].h.toNat, a.limits[q].tolerance.toNat⟩
                useCount := entry.useCount }
          ∃ t, CarriesOut (.writeProfile h a) s t ∧
            Served s t h (.writeProfile a) (s.served (s.unit.modifyProfile i fun _ => written)) false
              ⟨.accepted, 0, 0, [u8 i.val, u8 a.kind.toNat, u16 entry.useCount]⟩)

/-- With the gate OPEN: ADD_LOT, past its checks in order, fills the lowest FREE entry with an OPEN lot
of the code, kind and offsets and counts 0; WITHDRAW_LOT makes the code's entry WITHDRAWN, whether it
was or not; REMOVE_LOT frees an entry without users and refuses IN_USE one with any; nothing else
changes (R38 to R40). The entry reported with EXISTS is log 11. -/
def Obligations.LotRequestsMoveTheEntry : Prop :=
  ∀ (s : State) (h : Header), s.portFirst → s.gate = .opened →
    (∀ a : AddLotArgs,
      let good := a.lot ≠ 0 ∧ ∃ kind, kindOfCode a.kind.toNat = some kind ∧ ∀ i : Fin 12,
        -500 ≤ a.offsets[i].toInt ∧ a.offsets[i].toInt ≤ 500 ∧
          (isPoint kind i = false → a.offsets[i] = 0)
      let served (u : RecordUnit) (st : Status) (content : List Field) : Prop :=
        ∃ t, CarriesOut (.addLot h a) s t ∧
          Served s t h (.addLot a) (s.served u) false ⟨st, 0, 0, content⟩
      (¬good → served s.unit .badParameter []) ∧
      (∀ i, good → s.unit.findLot a.lot = some i →
        served s.unit .exists [u8 i.val, u32 a.lot.toNat]) ∧
      (good → s.unit.findLot a.lot = none → (∀ i : Fin 64, s.unit.lots[i].state ≠ .free) →
        served s.unit .tableFull []) ∧
      ∀ i : Fin 64, good → s.unit.findLot a.lot = none → s.unit.lots[i].state = .free →
        (∀ j : Fin 64, j < i → s.unit.lots[j].state ≠ .free) →
        served
          (s.unit.modifyLot i fun _ =>
            { state := .opened, code := a.lot, kind := kindOfCode a.kind.toNat
              offsets := build12 fun j => a.offsets[j].toInt, currentUsers := 0
              incomingUsers := 0 })
          .accepted [u8 i.val, u32 a.lot.toNat]) ∧
    ∀ code : Word,
      let withdrawn (u : RecordUnit) (st : Status) (content : List Field) : Prop :=
        ∃ t, CarriesOut (.withdrawLot h code) s t ∧
          Served s t h (.withdrawLot code) (s.served u) false ⟨st, 0, 0, content⟩
      let removed (u : RecordUnit) (st : Status) (content : List Field) : Prop :=
        ∃ t, CarriesOut (.removeLot h code) s t ∧
          Served s t h (.removeLot code) (s.served u) false ⟨st, 0, 0, content⟩
      (code = 0 → withdrawn s.unit .badParameter [] ∧ removed s.unit .badParameter []) ∧
      (code ≠ 0 → s.unit.findLot code = none →
        withdrawn s.unit .unknownLot [] ∧ removed s.unit .unknownLot []) ∧
      ∀ i, code ≠ 0 → s.unit.findLot code = some i →
        let l := s.unit.lots[i]
        withdrawn (s.unit.modifyLot i fun l => { l with state := .withdrawn }) .accepted
            [u8 i.val, u8 2] ∧
          (0 < l.currentUsers ∨ 0 < l.incomingUsers → removed s.unit .inUse [u8 i.val]) ∧
          (l.currentUsers = 0 → l.incomingUsers = 0 →
            removed
              (s.unit.modifyLot i fun _ =>
                { state := .free, code := 0, kind := none, offsets := Vector.replicate 12 0
                  currentUsers := 0, incomingUsers := 0 })
              .accepted [u8 i.val])

/-! ## Arbiter (R14 to R16) -/

/-- When the Record Unit is free the grant goes to an owed walker, of two owed the one not granted most
recently; else to a waiting foreground client, of two the one not granted most recently; else to a
waiting walker in the same way. A foreground grant adds 1 to the count of each waiting walker up to 8;
a walker's grant returns its own count to 0. With nobody waiting, or none to be made, nothing changes
(R15, R16; log 2). -/
def Obligations.GrantFollowsTheArbiter : Prop :=
  ∀ s : State, s.inColdReset = false →
    (s.readiness = .initialising ∨ s.unit.inProgress ≠ none → exec .recordUnitGrant s = .next s) ∧
    (s.readiness = .ready → s.unit.inProgress = none →
      let a := s.unit.arbiter
      let sweepOwed := s.unit.sweep.running = true ∧ 8 ≤ a.sweepCount
      let surveyOwed := s.unit.survey.state = .running ∧ 8 ≤ a.surveyCount
      let counted (client : Foreground) : Arbiter :=
        { a with
          sweepCount := if s.unit.sweep.running then min 8 (a.sweepCount + 1) else a.sweepCount
          surveyCount := if s.unit.survey.state = .running then min 8 (a.surveyCount + 1)
            else a.surveyCount
          lastForeground := client }
      let toSweep := exec .recordUnitGrant s = .next { s with
        unit := { s.unit with
          inProgress := some .sweepStep
          arbiter := { a with sweepCount := 0, lastBackground := .sweep } } }
      let toSurvey := exec .recordUnitGrant s = .next { s with
        unit := { s.unit with
          inProgress := some .surveyStep
          arbiter := { a with surveyCount := 0, lastBackground := .survey } } }
      let noPort := ∀ req, s.port.phase ≠ .waiting req
      let noReading := ∀ data, s.engine.flight ≠ some (.submitted data)
      (sweepOwed → (¬surveyOwed ∨ a.lastBackground = .survey) → toSweep) ∧
      (surveyOwed → (¬sweepOwed ∨ a.lastBackground = .sweep) → toSurvey) ∧
      (¬sweepOwed → ¬surveyOwed →
        (∀ req, s.port.phase = .waiting req → (noReading ∨ a.lastForeground = .batchEngine) →
          exec .recordUnitGrant s = .next { s with
            unit := { s.unit with
              inProgress := some (.command req false), arbiter := counted .commandPort }
            port := { s.port with phase := .granted } }) ∧
        (∀ data, s.engine.flight = some (.submitted data) →
          (noPort ∨ a.lastForeground = .commandPort) →
          exec .recordUnitGrant s = .next { s with
            unit := { s.unit with
              inProgress := some (.reading data false), arbiter := counted .batchEngine }
            engine := { s.engine with flight := some .granted } }) ∧
        (noPort → noReading →
          (s.unit.sweep.running = true →
            (s.unit.survey.state ≠ .running ∨ a.lastBackground = .survey) → toSweep) ∧
          (s.unit.survey.state = .running →
            (s.unit.sweep.running = false ∨ a.lastBackground = .sweep) → toSurvey) ∧
          (s.unit.sweep.running = false → s.unit.survey.state ≠ .running →
            exec .recordUnitGrant s = .next s))))

/-! ## Batch Engine (R164 to R178, R186, R187) -/

/-- ARM is refused, setting ARM_REFUSED and nothing else, while INITIALISING, with NEXT armed, or with a
count of 0 or an address not a multiple of 16; accepted outside IDLE it arms NEXT; accepted in IDLE it
promotes NEXT at once: FRONT from the NEXT fields, processed 0, NEXT cleared, NEXT_TAKEN latched, and
the fetch of the first 48 bytes issued, unless a pause was requested (R165 to R168, R186). -/
def Obligations.ArmArmsOrPromotesNext : Prop :=
  ∀ s : State, s.inColdReset = false →
    let e := s.engine
    let good := s.readiness = .ready ∧ e.armed = false ∧ e.next.count ≠ 0 ∧
      e.next.source.toNat % 16 = 0 ∧ e.next.result.toNat % 16 = 0
    (¬good → exec .arm s = .next { s with engine := { e with armRefused := true } }) ∧
    (good → e.phase ≠ .idle → exec .arm s = .next { s with engine := { e with armed := true } }) ∧
    (good → e.phase = .idle → ∃ t, exec .arm s = .next t ∧ OnlyBatch s t ∧
      t.engine = promotedEngine e e.report s.bus.busMaster s.fetchSerial ∧
      t.fetchSerial = (if e.pauseRequested then s.fetchSerial else s.fetchSerial + 1) ∧
      t.bus.status = s.bus.status ||| Source.nextTaken.mask ∧ Announced s t)

/-- ABORT is ignored in IDLE and while one pends; with a reading granted it pends and clears a pause
request; in every other condition of a batch it ends it ABORTED at once, the reading in flight given
up unprocessed, an armed NEXT cancelled, and BATCH_END latched (R174, R175). -/
def Obligations.AbortEndsTheBatch : Prop :=
  ∀ s : State, s.inColdReset = false →
    let e := s.engine
    (e.phase = .idle ∨ e.phase = .running ∧ e.abortPending = true → exec .abort s = .next s) ∧
    (e.phase = .running → e.abortPending = false → e.flight = some .granted →
      exec .abort s = .next { s with
        engine := { e with abortPending := true, pauseRequested := false } }) ∧
    ∀ f, e.front = some f →
      (e.phase = .paused ∨
        e.phase = .running ∧ e.abortPending = false ∧ e.flight ≠ some .granted) →
      ∃ t, exec .abort s = .next t ∧ OnlyBatch s t ∧ t.engine = endedEngine e f .aborted ∧
        t.fetchSerial = s.fetchSerial ∧
        t.bus.status = s.bus.status ||| Source.batchEnd.mask ∧ Announced s t

/-- PAUSE in RUNNING sets pause requested and is ignored otherwise; RESUME in PAUSED makes the engine
RUNNING and issues the fetch at the current source address, in RUNNING clears pause requested, and in
IDLE is ignored (R168, R176). -/
def Obligations.PauseAndResumeHoldTheBatch : Prop :=
  ∀ s : State, s.inColdReset = false →
    let e := s.engine
    (e.phase = .running →
      exec .pause s = .next { s with engine := { e with pauseRequested := true } } ∧
      exec .resume s = .next { s with engine := { e with pauseRequested := false } }) ∧
    (e.phase ≠ .running → exec .pause s = .next s) ∧ (e.phase = .idle → exec .resume s = .next s) ∧
    ∀ f, e.phase = .paused → e.front = some f →
      exec .resume s = .next { s with
        fetchSerial := s.fetchSerial + 1
        engine := { e with
          phase := .running
          flight := some (.fetch s.fetchSerial (fetchReads s.bus.busMaster f.source)) } }

/-- A write to a NEXT field, whole or by halves, stores its value while NEXT is not armed and is ignored
while it is, leaving the other fields; ARM_REFUSED_CLEAR clears ARM_REFUSED alone (R165, R166,
R180). -/
def Obligations.NextFieldsAreStoredWhenNotArmed : Prop :=
  ∀ s : State, s.inColdReset = false →
    let e := s.engine
    let d := e.next
    let low (x : DWord) : Nat := x.toNat % 2 ^ 32
    let high (x : DWord) : Nat := x.toNat / 2 ^ 32
    exec .armRefusedClear s = .next { s with engine := { e with armRefused := false } } ∧
    (e.armed = true → ∀ w, exec (.nextFieldWrite w) s = .next s) ∧
    (e.armed = false → ∀ w, ∃ n : Descriptor,
      exec (.nextFieldWrite w) s = .next { s with engine := { e with next := n } } ∧
      match w with
      | .source v => n = { d with source := v }
      | .sourceLow v => n = { d with source := n.source } ∧ low n.source = v.toNat ∧
          high n.source = high d.source
      | .sourceHigh v => n = { d with source := n.source } ∧ low n.source = low d.source ∧
          high n.source = v.toNat
      | .count v => n = { d with count := n.count } ∧ n.count.toNat = v.toNat % 65536
      | .options v => n = { d with options := ⟨v.getLsbD 0, v.getLsbD 1⟩ }
      | .result v => n = { d with result := v }
      | .resultLow v => n = { d with result := n.result } ∧ low n.result = v.toNat ∧
          high n.result = high d.result
      | .resultHigh v => n = { d with result := n.result } ∧ low n.result = low d.result ∧
          high n.result = v.toNat)

/-- The fetch outstanding ends at the first of its events: a completion whose check code passes submits
the reading; one whose code differs processes the reading at once with a BAD_CHECK verdict, the Record
Unit untouched; an error ends the batch FETCH_ERROR and the timeout FETCH_TIMEOUT, the reading
unprocessed. A completion or error of another fetch, or with none outstanding, changes nothing
(R169, R170, R174; log 7). The model's choices: a timeout with no fetch outstanding changes nothing
(log 2); a fetch kept off the link, which has no reads, ends by the timeout too, and a completion that
names it changes nothing (log 18). -/
def Obligations.FetchEndsAtItsFirstEvent : Prop :=
  ∀ s : State, s.inColdReset = false →
    let e := s.engine
    let ended (c : Instr) (f : Front) (cause : EndCause) : Prop :=
      ∃ t, exec c s = .next t ∧ OnlyBatch s t ∧ t.engine = endedEngine e f cause ∧
        t.fetchSerial = s.fetchSerial ∧
        t.bus.status = s.bus.status ||| Source.batchEnd.mask ∧ Announced s t
    (∀ n reads f, e.flight = some (.fetch n reads) → e.front = some f →
      ended (.fetchError n) f .fetchError ∧ ended .fetchTimeout f .fetchTimeout ∧
      (reads = [] → ∀ data, exec (.readCompletion n data) s = .next s) ∧
      ∀ data, reads ≠ [] →
        (checkPasses data = true → exec (.readCompletion n data) s = .next { s with
          engine := { e with flight := some (.submitted data) } }) ∧
        (checkPasses data = false → ∃ t, exec (.readCompletion n data) s = .next t ∧
          t.unit = s.unit ∧
          ReadingProcessed s t f (Verdict.noRecord (parseReading data) .badCheck) s.bus.status)) ∧
    (∀ n data, (∀ reads, e.flight ≠ some (.fetch n reads)) →
      exec (.readCompletion n data) s = .next s ∧ exec (.fetchError n) s = .next s) ∧
    ((∀ n reads, e.flight ≠ some (.fetch n reads)) → exec .fetchTimeout s = .next s)

/-- The completion of a batch reading makes the reading's effects, with ATTENTION latched where a
region's count passed from 0, and processes the reading: verdict written, counters and addresses
advanced, the batch ended, paused or taken on. A reading whose batch a port reset cut short has its
effects alone (R172 to R174, R176, R178). The verdict is one write, or two where it crosses a 4 KiB
boundary (R187), the part below the boundary first (the model's choice, log 31). -/
def Obligations.BatchReadingAdvancesOrEnds : Prop :=
  (∀ (address : DWord) (bytes : List Byte), bytes.length = 32 →
    let room := 4096 - address.toNat % 4096
    writeItems address bytes =
      if 32 ≤ room then [.write address bytes]
      else
        [.write address (bytes.take room),
         .write (address + BitVec.ofNat 64 room) (bytes.drop room)]) ∧
  ∀ (s : State) (data : RawReading), s.inColdReset = false →
    let g := carryReading s.unit data
    let latched := s.bus.status ||| if g.attention then Source.attention.mask else 0
    (s.unit.inProgress = some (.reading data true) →
      ∃ t, exec .batchReadingComplete s = .next t ∧
        t.unit = { g.unit with inProgress := none } ∧ t.engine = s.engine ∧ t.port = s.port ∧
        t.bus.status = latched ∧ Announced s t) ∧
    ∀ f, s.unit.inProgress = some (.reading data false) → s.engine.front = some f →
      ∃ t, exec .batchReadingComplete s = .next t ∧
        t.unit = { g.unit with inProgress := none } ∧ ReadingProcessed s t f g.verdict latched

/-! ## Bus Link (R179, R180, R183 to R185) -/

/-- A status write clears the sources written as 1 and leaves the others; an enable write sets all seven
enables; each moves the interrupt output with it, asserted exactly when some latched source has its
enable set, announces a passage to asserted by one message, and changes nothing else (R183 to
R185). -/
def Obligations.InterruptWritesMoveTheOutput : Prop :=
  ∀ (s : State) (value : Word), s.inColdReset = false →
    let others (t : State) : Prop :=
      t.unit = s.unit ∧ t.port = s.port ∧ t.gate = s.gate ∧ t.engine = s.engine ∧
        t.readiness = s.readiness ∧ t.bus.sent = s.bus.sent ∧ Announced s t ∧
        t.pending = s.pending ∧
        (t.intOutput = true ↔ ∃ i : Fin 7, t.bus.status[i] = true ∧ t.bus.enable[i] = true)
    (∃ t, exec (.interruptStatusClear value) s = .next t ∧ others t ∧
      t.bus.enable = s.bus.enable ∧
      ∀ i : Fin 7, t.bus.status[i] = (s.bus.status[i] && !value.getLsbD i.val)) ∧
    ∃ t, exec (.interruptEnableWrite value) s = .next t ∧ others t ∧
      t.bus.status = s.bus.status ∧ ∀ i : Fin 7, t.bus.enable[i] = value.getLsbD i.val

/-- A 32-bit write, or a 64-bit one to an address field, is the row of the register it falls on: the
control actions of one write are taken in the order of R151 and R166, OVERRUN clear then GO, and
ARM_REFUSED clear, ABORT, PAUSE, RESUME, ARM; bits not named are ignored. Every other write stores
those of its bytes that fall in the request block, in either port state, and changes nothing else
(R149, R151, R166, R179, R180; what a write over the block's edge or a misaligned one does is log 17,
that a place with a row has that row's behaviour log 19). -/
def Obligations.WindowWritesReachTheirRegister : Prop :=
  ∀ s : State, s.inColdReset = false →
    (∀ (offset : Nat) (bytes : List Byte),
      ¬(bytes.length = 4 ∧ offset ∈ [0x020, 0x024, 0x030, 0x040, 0x200, 0x204, 0x208, 0x20C, 0x210,
        0x214, 0x218]) →
      ¬(bytes.length = 8 ∧ offset ∈ [0x200, 0x210]) →
      ∃ t, exec (.registerWrite offset bytes) s = .next t ∧
        t = { s with port := { s.port with requestBlock := t.port.requestBlock } } ∧
        ∀ i : Fin 64, t.port.requestBlock[i] =
          if h : offset ≤ 0x080 + i.val ∧ 0x080 + i.val - offset < bytes.length then
            bytes[0x080 + i.val - offset]'h.2
          else s.port.requestBlock[i]) ∧
    (∀ value : Word,
      let write (offset : Nat) := exec (.registerWrite offset (bytesLE 4 value.toNat)) s
      write 0x020 = exec (.interruptStatusClear value) s ∧
      write 0x024 = exec (.interruptEnableWrite value) s ∧
      write 0x030 = (if value.getLsbD 0 then exec (.portReset .registerWrite) s else .next s) ∧
      write 0x200 = exec (.nextFieldWrite (.sourceLow value)) s ∧
      write 0x204 = exec (.nextFieldWrite (.sourceHigh value)) s ∧
      write 0x208 = exec (.nextFieldWrite (.count value)) s ∧
      write 0x20C = exec (.nextFieldWrite (.options value)) s ∧
      write 0x210 = exec (.nextFieldWrite (.resultLow value)) s ∧
      write 0x214 = exec (.nextFieldWrite (.resultHigh value)) s ∧
      (value.getLsbD 3 = true → write 0x040 = exec (.overrunClear (value.getLsbD 0)) s) ∧
      (value.getLsbD 3 = false → value.getLsbD 0 = false → write 0x040 = .next s) ∧
      (value.getLsbD 3 = false → value.getLsbD 0 = true →
        ∃ t, exec (.overrunClear true) s = .next t ∧
          write 0x040 = .next { t with
            port := { t.port with overrun := s.port.overrun || t.port.overrun } }) ∧
      ∃ s₁ s₂ s₃ s₄ t,
        ActsOn (value.getLsbD 4) .armRefusedClear s s₁ ∧ ActsOn (value.getLsbD 1) .abort s₁ s₂ ∧
          ActsOn (value.getLsbD 2) .pause s₂ s₃ ∧ ActsOn (value.getLsbD 3) .resume s₃ s₄ ∧
          ActsOn (value.getLsbD 0) .arm s₄ t ∧ write 0x218 = .next t) ∧
    ∀ value : DWord,
      let write (offset : Nat) := exec (.registerWrite offset (bytesLE 8 value.toNat)) s
      write 0x200 = exec (.nextFieldWrite (.source value)) s ∧
      write 0x210 = exec (.nextFieldWrite (.result value)) s

/-- A read of a register shows its value, little-endian, at the bits R179 gives: device status, the
interrupt registers, the two control words, the NEXT fields, FRONT, 0 while it is absent, and the end
report; the two blocks show their bytes; a place with nothing mapped, and the write-only port reset,
reads 0; a narrower read is the bytes it names of a wider one (R149, R164, R179 to R181). What a read
over an edge or wider than a register shows is log 17. While cold reset is held the part answers no read
(log 8). -/
def Obligations.WindowReadsShowTheRegisters : Prop :=
  ∀ s : State,
    (s.inColdReset = true → ∀ offset length, s.windowRead offset length = none) ∧
    (s.inColdReset = false →
      let u := s.unit
      let e := s.engine
      let shows (offset value : Nat) : Prop := s.windowRead offset 4 = some (bytesLE 4 value)
      let shows8 (offset : Nat) (value : DWord) : Prop :=
        s.windowRead offset 8 = some (bytesLE 8 value.toNat)
      let front (f : Front → Nat) : Nat := e.front.elim 0 f
      let free := (u.ringTail + 4096 - u.ringHead) % 4096
      (shows 0x000 ((if s.readiness = .ready then 1 else 0) +
          (match s.gate with | .closed => 0 | .key1Seen => 2 | .opened => 4) +
          (if u.freeze then 8 else 0) + (if u.sweep.running then 16 else 0)) ∧
        shows 0x004 u.businessDay ∧
        (s.readiness = .initialising → u.ringHead = u.ringTail → shows 0x008 0) ∧
        (s.readiness = .ready → shows 0x008 (4095 - free + 65536 * free)) ∧
        shows 0x00C u.sweep.pointer ∧
        shows 0x010 ((match u.survey.state with
          | .noResult => 0 | .running => 1 | .done => 2 | .stopped => 3) + 256 * u.survey.margin) ∧
        shows 0x014 (u.survey.visited + 65536 * u.survey.marked) ∧
        shows 0x018 u.survey.firstMarked) ∧
      (shows 0x020 s.bus.status.toNat ∧ shows 0x024 s.bus.enable.toNat ∧
        shows 0x028 (if s.bus.status &&& s.bus.enable = 0 then 0 else 1)) ∧
      shows 0x040 ((if s.port.phase = .idle then 0 else 2) + (if s.port.done then 4 else 0) +
        (if s.port.overrun then 8 else 0)) ∧
      (shows8 0x200 e.next.source ∧ shows 0x208 e.next.count.toNat ∧
        shows 0x20C ((if e.next.options.onAction then 1 else 0) +
          (if e.next.options.onRefusal then 2 else 0)) ∧
        shows8 0x210 e.next.result ∧
        shows 0x218 ((if e.armRefused then 16 else 0) + (if e.armed then 32 else 0) +
          (if e.pauseRequested then 64 else 0) + (if e.abortPending then 128 else 0) +
          (match e.phase with | .idle => 0 | .running => 256 | .paused => 512))) ∧
      (shows 0x220 (front fun f => f.count.toNat + (if f.options.onAction then 65536 else 0) +
          (if f.options.onRefusal then 131072 else 0)) ∧
        shows 0x224 (front (·.processed)) ∧ shows 0x228 (front (·.remaining)) ∧
        shows8 0x230 (e.front.elim 0 (·.source)) ∧ shows8 0x238 (e.front.elim 0 (·.result))) ∧
      (shows 0x240 ((match e.report.cause with
          | .noEnd => 0 | .complete => 1 | .stopAction => 2 | .stopRefusal => 3 | .aborted => 4
          | .fetchTimeout => 5 | .fetchError => 6) + (if e.report.nextCancelled then 256 else 0)) ∧
        shows 0x244 e.report.processed ∧ shows 0x248 e.report.remaining ∧
        shows8 0x250 e.report.nextSource ∧ shows8 0x258 e.report.nextResult) ∧
      (∀ i : Fin 64, s.windowRead (0x080 + i.val) 1 = some [s.port.requestBlock[i]]) ∧
      (∀ i : Fin 256, s.windowRead (0x100 + i.val) 1 = some [s.port.responseBlock[i]]) ∧
      (∀ offset, 0x01C ≤ offset ∧ offset < 0x020 ∨ 0x02C ≤ offset ∧ offset < 0x040 ∨
          0x044 ≤ offset ∧ offset < 0x080 ∨ 0x0C0 ≤ offset ∧ offset < 0x100 ∨
          0x21C ≤ offset ∧ offset < 0x220 ∨ 0x22C ≤ offset ∧ offset < 0x230 ∨
          0x24C ≤ offset ∧ offset < 0x250 ∨ 0x260 ≤ offset →
        s.windowRead offset 1 = some [0]) ∧
      ∀ offset length skip count, skip + count ≤ length →
        s.windowRead (offset + skip) count =
          (s.windowRead offset length).map fun bytes => (bytes.drop skip).take count)

/-! ## Invariants -/

/-- Every invariant below holds right after reset. -/
def Obligations.ResetMeetsEveryInvariant : Prop :=
  EngineInv State.reset ∧ ClientInv State.reset ∧ LinesInv State.reset ∧ TableInv State.reset ∧
    CountsInv State.reset ∧ ClosedInv State.reset

/-- Every step keeps the order of the Batch Engine and of the clients of the Record Unit. -/
def Obligations.StepKeepsEngineAndClients : Prop :=
  ∀ s t : State, EngineInv s → ClientInv s → step s = .next t → EngineInv t ∧ ClientInv t

/-- Every step keeps every live record in one of its five states with the parts that state allows, its
level, acknowledged level, attention bit and statistics as the rules tie them together. -/
def Obligations.StepKeepsEveryLine : Prop :=
  ∀ s t : State, LinesInv s → step s = .next t → LinesInv t

/-- Every step keeps slots, keys, chains and ring in order: each slot live or in the ring exactly once
and not both, each chain holding exactly the live slots of its bucket. -/
def Obligations.StepKeepsSlotsChainsAndRing : Prop :=
  ∀ s t : State, TableInv s → step s = .next t → TableInv t

/-- Every step keeps the table counts equal to what the live records make them, the records on profiles
and lots of their kind, and their countdown, missed count and pairs in range. -/
def Obligations.StepKeepsTheCounts : Prop :=
  ∀ s t : State, TableInv s → CountsInv s → step s = .next t → CountsInv t

/-- Every step keeps every record within 7 days of the business day and closed wherever the sweep has
passed, with snapshots and held readings of the closed-through day. -/
def Obligations.StepKeepsRecordsNearTheDay : Prop :=
  ∀ s t : State, TableInv s → LinesInv s → ClosedInv s → step s = .next t → ClosedInv t
end

