-- ==== Sys2Proof/Laws/State.lean ====
section
/-! SUPPORT. What each update of the state, of the Record Unit and of a touched record leaves in each
field: one lemma for each field of each update. -/

-- One theorem at a time: theorems elaborated side by side wait on each other, a thread each.
set_option Elab.async false

namespace Sys2Proof.Machine

open Sys2Proof

/-! ## `State.mapEngine` -/

@[simp] theorem State.mapEngine_inColdReset (s : State) (f : BatchEngine → BatchEngine) :
    (s.mapEngine f).inColdReset = s.inColdReset := rfl

@[simp] theorem State.mapEngine_readiness (s : State) (f : BatchEngine → BatchEngine) :
    (s.mapEngine f).readiness = s.readiness := rfl

@[simp] theorem State.mapEngine_unit (s : State) (f : BatchEngine → BatchEngine) :
    (s.mapEngine f).unit = s.unit := rfl

@[simp] theorem State.mapEngine_port (s : State) (f : BatchEngine → BatchEngine) :
    (s.mapEngine f).port = s.port := rfl

@[simp] theorem State.mapEngine_gate (s : State) (f : BatchEngine → BatchEngine) :
    (s.mapEngine f).gate = s.gate := rfl

@[simp] theorem State.mapEngine_bus (s : State) (f : BatchEngine → BatchEngine) :
    (s.mapEngine f).bus = s.bus := rfl

@[simp] theorem State.mapEngine_fetchSerial (s : State) (f : BatchEngine → BatchEngine) :
    (s.mapEngine f).fetchSerial = s.fetchSerial := rfl

@[simp] theorem State.mapEngine_linkTick (s : State) (f : BatchEngine → BatchEngine) :
    (s.mapEngine f).linkTick = s.linkTick := rfl

@[simp] theorem State.mapEngine_pending (s : State) (f : BatchEngine → BatchEngine) :
    (s.mapEngine f).pending = s.pending := rfl

@[simp] theorem State.mapEngine_engine (s : State) (f : BatchEngine → BatchEngine) :
    (s.mapEngine f).engine = f s.engine := rfl

/-! ## `State.latch` -/

@[simp] theorem State.latch_inColdReset (s : State) (src : Source) :
    (s.latch src).inColdReset = s.inColdReset := rfl

@[simp] theorem State.latch_readiness (s : State) (src : Source) :
    (s.latch src).readiness = s.readiness := rfl

@[simp] theorem State.latch_unit (s : State) (src : Source) :
    (s.latch src).unit = s.unit := rfl

@[simp] theorem State.latch_port (s : State) (src : Source) :
    (s.latch src).port = s.port := rfl

@[simp] theorem State.latch_gate (s : State) (src : Source) :
    (s.latch src).gate = s.gate := rfl

@[simp] theorem State.latch_engine (s : State) (src : Source) :
    (s.latch src).engine = s.engine := rfl

@[simp] theorem State.latch_fetchSerial (s : State) (src : Source) :
    (s.latch src).fetchSerial = s.fetchSerial := rfl

@[simp] theorem State.latch_linkTick (s : State) (src : Source) :
    (s.latch src).linkTick = s.linkTick := rfl

@[simp] theorem State.latch_pending (s : State) (src : Source) :
    (s.latch src).pending = s.pending := rfl

@[simp] theorem State.latch_bus_enable (s : State) (src : Source) :
    (s.latch src).bus.enable = s.bus.enable := rfl

@[simp] theorem State.latch_bus_busMaster (s : State) (src : Source) :
    (s.latch src).bus.busMaster = s.bus.busMaster := rfl

@[simp] theorem State.latch_bus_msiEnabled (s : State) (src : Source) :
    (s.latch src).bus.msiEnabled = s.bus.msiEnabled := rfl

@[simp] theorem State.latch_bus_msiAddress (s : State) (src : Source) :
    (s.latch src).bus.msiAddress = s.bus.msiAddress := rfl

@[simp] theorem State.latch_bus_msiData (s : State) (src : Source) :
    (s.latch src).bus.msiData = s.bus.msiData := rfl

@[simp] theorem State.latch_bus_outbound (s : State) (src : Source) :
    (s.latch src).bus.outbound = s.bus.outbound := rfl

@[simp] theorem State.latch_bus_sent (s : State) (src : Source) :
    (s.latch src).bus.sent = s.bus.sent := rfl

@[simp] theorem State.latch_bus_status (s : State) (src : Source) :
    (s.latch src).bus.status = s.bus.status ||| src.mask := rfl

/-! ## `State.latchAttention` -/

@[simp] theorem State.latchAttention_inColdReset (s : State) (passed : Bool) :
    (s.latchAttention passed).inColdReset = s.inColdReset := by
  cases passed <;> rfl

@[simp] theorem State.latchAttention_readiness (s : State) (passed : Bool) :
    (s.latchAttention passed).readiness = s.readiness := by
  cases passed <;> rfl

@[simp] theorem State.latchAttention_unit (s : State) (passed : Bool) :
    (s.latchAttention passed).unit = s.unit := by
  cases passed <;> rfl

@[simp] theorem State.latchAttention_port (s : State) (passed : Bool) :
    (s.latchAttention passed).port = s.port := by
  cases passed <;> rfl

@[simp] theorem State.latchAttention_gate (s : State) (passed : Bool) :
    (s.latchAttention passed).gate = s.gate := by
  cases passed <;> rfl

@[simp] theorem State.latchAttention_engine (s : State) (passed : Bool) :
    (s.latchAttention passed).engine = s.engine := by
  cases passed <;> rfl

@[simp] theorem State.latchAttention_fetchSerial (s : State) (passed : Bool) :
    (s.latchAttention passed).fetchSerial = s.fetchSerial := by
  cases passed <;> rfl

@[simp] theorem State.latchAttention_linkTick (s : State) (passed : Bool) :
    (s.latchAttention passed).linkTick = s.linkTick := by
  cases passed <;> rfl

@[simp] theorem State.latchAttention_pending (s : State) (passed : Bool) :
    (s.latchAttention passed).pending = s.pending := by
  cases passed <;> rfl

@[simp] theorem State.latchAttention_bus_enable (s : State) (passed : Bool) :
    (s.latchAttention passed).bus.enable = s.bus.enable := by
  cases passed <;> rfl

@[simp] theorem State.latchAttention_bus_busMaster (s : State) (passed : Bool) :
    (s.latchAttention passed).bus.busMaster = s.bus.busMaster := by
  cases passed <;> rfl

@[simp] theorem State.latchAttention_bus_msiEnabled (s : State) (passed : Bool) :
    (s.latchAttention passed).bus.msiEnabled = s.bus.msiEnabled := by
  cases passed <;> rfl

@[simp] theorem State.latchAttention_bus_msiAddress (s : State) (passed : Bool) :
    (s.latchAttention passed).bus.msiAddress = s.bus.msiAddress := by
  cases passed <;> rfl

@[simp] theorem State.latchAttention_bus_msiData (s : State) (passed : Bool) :
    (s.latchAttention passed).bus.msiData = s.bus.msiData := by
  cases passed <;> rfl

@[simp] theorem State.latchAttention_bus_outbound (s : State) (passed : Bool) :
    (s.latchAttention passed).bus.outbound = s.bus.outbound := by
  cases passed <;> rfl

@[simp] theorem State.latchAttention_bus_sent (s : State) (passed : Bool) :
    (s.latchAttention passed).bus.sent = s.bus.sent := by
  cases passed <;> rfl

@[simp] theorem State.latchAttention_bus_status (s : State) (passed : Bool) :
    (s.latchAttention passed).bus.status = if passed then s.bus.status ||| Source.attention.mask else s.bus.status := by
  cases passed <;> rfl

/-! ## `settle`: only the outward traffic can change -/

@[simp] theorem settle_inColdReset (before after : State) :
    (settle before after).inColdReset = after.inColdReset := by
  unfold settle; split <;> rfl

@[simp] theorem settle_readiness (before after : State) :
    (settle before after).readiness = after.readiness := by
  unfold settle; split <;> rfl

@[simp] theorem settle_unit (before after : State) :
    (settle before after).unit = after.unit := by
  unfold settle; split <;> rfl

@[simp] theorem settle_port (before after : State) :
    (settle before after).port = after.port := by
  unfold settle; split <;> rfl

@[simp] theorem settle_gate (before after : State) :
    (settle before after).gate = after.gate := by
  unfold settle; split <;> rfl

@[simp] theorem settle_engine (before after : State) :
    (settle before after).engine = after.engine := by
  unfold settle; split <;> rfl

@[simp] theorem settle_fetchSerial (before after : State) :
    (settle before after).fetchSerial = after.fetchSerial := by
  unfold settle; split <;> rfl

@[simp] theorem settle_linkTick (before after : State) :
    (settle before after).linkTick = after.linkTick := by
  unfold settle; split <;> rfl

@[simp] theorem settle_pending (before after : State) :
    (settle before after).pending = after.pending := by
  unfold settle; split <;> rfl

@[simp] theorem settle_bus_status (before after : State) :
    (settle before after).bus.status = after.bus.status := by
  unfold settle; split <;> rfl

@[simp] theorem settle_bus_enable (before after : State) :
    (settle before after).bus.enable = after.bus.enable := by
  unfold settle; split <;> rfl

@[simp] theorem settle_bus_busMaster (before after : State) :
    (settle before after).bus.busMaster = after.bus.busMaster := by
  unfold settle; split <;> rfl

@[simp] theorem settle_bus_msiEnabled (before after : State) :
    (settle before after).bus.msiEnabled = after.bus.msiEnabled := by
  unfold settle; split <;> rfl

@[simp] theorem settle_bus_msiAddress (before after : State) :
    (settle before after).bus.msiAddress = after.bus.msiAddress := by
  unfold settle; split <;> rfl

@[simp] theorem settle_bus_msiData (before after : State) :
    (settle before after).bus.msiData = after.bus.msiData := by
  unfold settle; split <;> rfl

@[simp] theorem settle_bus_sent (before after : State) :
    (settle before after).bus.sent = after.bus.sent := by
  unfold settle; split <;> rfl

/-! ## `State.postWrite` -/

@[simp] theorem State.postWrite_inColdReset (s : State) (address : DWord) (bytes : List Byte) :
    (s.postWrite address bytes).inColdReset = s.inColdReset := by
  unfold State.postWrite; split <;> rfl

@[simp] theorem State.postWrite_readiness (s : State) (address : DWord) (bytes : List Byte) :
    (s.postWrite address bytes).readiness = s.readiness := by
  unfold State.postWrite; split <;> rfl

@[simp] theorem State.postWrite_unit (s : State) (address : DWord) (bytes : List Byte) :
    (s.postWrite address bytes).unit = s.unit := by
  unfold State.postWrite; split <;> rfl

@[simp] theorem State.postWrite_port (s : State) (address : DWord) (bytes : List Byte) :
    (s.postWrite address bytes).port = s.port := by
  unfold State.postWrite; split <;> rfl

@[simp] theorem State.postWrite_gate (s : State) (address : DWord) (bytes : List Byte) :
    (s.postWrite address bytes).gate = s.gate := by
  unfold State.postWrite; split <;> rfl

@[simp] theorem State.postWrite_engine (s : State) (address : DWord) (bytes : List Byte) :
    (s.postWrite address bytes).engine = s.engine := by
  unfold State.postWrite; split <;> rfl

@[simp] theorem State.postWrite_fetchSerial (s : State) (address : DWord) (bytes : List Byte) :
    (s.postWrite address bytes).fetchSerial = s.fetchSerial := by
  unfold State.postWrite; split <;> rfl

@[simp] theorem State.postWrite_linkTick (s : State) (address : DWord) (bytes : List Byte) :
    (s.postWrite address bytes).linkTick = s.linkTick := by
  unfold State.postWrite; split <;> rfl

@[simp] theorem State.postWrite_pending (s : State) (address : DWord) (bytes : List Byte) :
    (s.postWrite address bytes).pending = s.pending := by
  unfold State.postWrite; split <;> rfl

@[simp] theorem State.postWrite_bus_status (s : State) (address : DWord) (bytes : List Byte) :
    (s.postWrite address bytes).bus.status = s.bus.status := by
  unfold State.postWrite; split <;> rfl

@[simp] theorem State.postWrite_bus_enable (s : State) (address : DWord) (bytes : List Byte) :
    (s.postWrite address bytes).bus.enable = s.bus.enable := by
  unfold State.postWrite; split <;> rfl

@[simp] theorem State.postWrite_bus_busMaster (s : State) (address : DWord) (bytes : List Byte) :
    (s.postWrite address bytes).bus.busMaster = s.bus.busMaster := by
  unfold State.postWrite; split <;> rfl

@[simp] theorem State.postWrite_bus_msiEnabled (s : State) (address : DWord) (bytes : List Byte) :
    (s.postWrite address bytes).bus.msiEnabled = s.bus.msiEnabled := by
  unfold State.postWrite; split <;> rfl

@[simp] theorem State.postWrite_bus_msiAddress (s : State) (address : DWord) (bytes : List Byte) :
    (s.postWrite address bytes).bus.msiAddress = s.bus.msiAddress := by
  unfold State.postWrite; split <;> rfl

@[simp] theorem State.postWrite_bus_msiData (s : State) (address : DWord) (bytes : List Byte) :
    (s.postWrite address bytes).bus.msiData = s.bus.msiData := by
  unfold State.postWrite; split <;> rfl

@[simp] theorem State.postWrite_bus_sent (s : State) (address : DWord) (bytes : List Byte) :
    (s.postWrite address bytes).bus.sent = s.bus.sent := by
  unfold State.postWrite; split <;> rfl

/-! ## `State.sendOldest` -/

@[simp] theorem State.sendOldest_inColdReset (s : State) :
    (s.sendOldest).inColdReset = s.inColdReset := by
  unfold State.sendOldest; split <;> rfl

@[simp] theorem State.sendOldest_readiness (s : State) :
    (s.sendOldest).readiness = s.readiness := by
  unfold State.sendOldest; split <;> rfl

@[simp] theorem State.sendOldest_unit (s : State) :
    (s.sendOldest).unit = s.unit := by
  unfold State.sendOldest; split <;> rfl

@[simp] theorem State.sendOldest_port (s : State) :
    (s.sendOldest).port = s.port := by
  unfold State.sendOldest; split <;> rfl

@[simp] theorem State.sendOldest_gate (s : State) :
    (s.sendOldest).gate = s.gate := by
  unfold State.sendOldest; split <;> rfl

@[simp] theorem State.sendOldest_engine (s : State) :
    (s.sendOldest).engine = s.engine := by
  unfold State.sendOldest; split <;> rfl

@[simp] theorem State.sendOldest_fetchSerial (s : State) :
    (s.sendOldest).fetchSerial = s.fetchSerial := by
  unfold State.sendOldest; split <;> rfl

@[simp] theorem State.sendOldest_linkTick (s : State) :
    (s.sendOldest).linkTick = s.linkTick := by
  unfold State.sendOldest; split <;> rfl

@[simp] theorem State.sendOldest_pending (s : State) :
    (s.sendOldest).pending = s.pending := by
  unfold State.sendOldest; split <;> rfl

/-! ## `State.discardOutbound` -/

@[simp] theorem State.discardOutbound_inColdReset (s : State) :
    (s.discardOutbound).inColdReset = s.inColdReset := by
  unfold State.discardOutbound; split <;> rfl

@[simp] theorem State.discardOutbound_readiness (s : State) :
    (s.discardOutbound).readiness = s.readiness := by
  unfold State.discardOutbound; split <;> rfl

@[simp] theorem State.discardOutbound_unit (s : State) :
    (s.discardOutbound).unit = s.unit := by
  unfold State.discardOutbound; split <;> rfl

@[simp] theorem State.discardOutbound_port (s : State) :
    (s.discardOutbound).port = s.port := by
  unfold State.discardOutbound; split <;> rfl

@[simp] theorem State.discardOutbound_gate (s : State) :
    (s.discardOutbound).gate = s.gate := by
  unfold State.discardOutbound; split <;> rfl

@[simp] theorem State.discardOutbound_engine (s : State) :
    (s.discardOutbound).engine = s.engine := by
  unfold State.discardOutbound; split <;> rfl

@[simp] theorem State.discardOutbound_fetchSerial (s : State) :
    (s.discardOutbound).fetchSerial = s.fetchSerial := by
  unfold State.discardOutbound; split <;> rfl

@[simp] theorem State.discardOutbound_pending (s : State) :
    (s.discardOutbound).pending = s.pending := by
  unfold State.discardOutbound; split <;> rfl

@[simp] theorem State.discardOutbound_bus_outbound (s : State) :
    s.discardOutbound.bus.outbound = [] := by
  unfold State.discardOutbound; split
  · assumption
  · rfl

/-! ## `respond` -/

@[simp] theorem respond_inColdReset (code : Byte) (tag : Half) (r : Reply) (s : State) :
    (respond code tag r s).inColdReset = s.inColdReset := rfl

@[simp] theorem respond_readiness (code : Byte) (tag : Half) (r : Reply) (s : State) :
    (respond code tag r s).readiness = s.readiness := rfl

@[simp] theorem respond_unit (code : Byte) (tag : Half) (r : Reply) (s : State) :
    (respond code tag r s).unit = s.unit := rfl

@[simp] theorem respond_gate (code : Byte) (tag : Half) (r : Reply) (s : State) :
    (respond code tag r s).gate = s.gate := rfl

@[simp] theorem respond_engine (code : Byte) (tag : Half) (r : Reply) (s : State) :
    (respond code tag r s).engine = s.engine := rfl

@[simp] theorem respond_fetchSerial (code : Byte) (tag : Half) (r : Reply) (s : State) :
    (respond code tag r s).fetchSerial = s.fetchSerial := rfl

@[simp] theorem respond_linkTick (code : Byte) (tag : Half) (r : Reply) (s : State) :
    (respond code tag r s).linkTick = s.linkTick := rfl

@[simp] theorem respond_pending (code : Byte) (tag : Half) (r : Reply) (s : State) :
    (respond code tag r s).pending = s.pending := rfl

@[simp] theorem respond_port (code : Byte) (tag : Half) (r : Reply) (s : State) :
    (respond code tag r s).port = { s.port with
      phase := .idle, done := true, responseBlock := responseOf code tag r } := rfl

@[simp] theorem respond_bus_enable (code : Byte) (tag : Half) (r : Reply) (s : State) :
    (respond code tag r s).bus.enable = s.bus.enable := rfl

@[simp] theorem respond_bus_busMaster (code : Byte) (tag : Half) (r : Reply) (s : State) :
    (respond code tag r s).bus.busMaster = s.bus.busMaster := rfl

@[simp] theorem respond_bus_msiEnabled (code : Byte) (tag : Half) (r : Reply) (s : State) :
    (respond code tag r s).bus.msiEnabled = s.bus.msiEnabled := rfl

@[simp] theorem respond_bus_msiAddress (code : Byte) (tag : Half) (r : Reply) (s : State) :
    (respond code tag r s).bus.msiAddress = s.bus.msiAddress := rfl

@[simp] theorem respond_bus_msiData (code : Byte) (tag : Half) (r : Reply) (s : State) :
    (respond code tag r s).bus.msiData = s.bus.msiData := rfl

@[simp] theorem respond_bus_outbound (code : Byte) (tag : Half) (r : Reply) (s : State) :
    (respond code tag r s).bus.outbound = s.bus.outbound := rfl

@[simp] theorem respond_bus_sent (code : Byte) (tag : Half) (r : Reply) (s : State) :
    (respond code tag r s).bus.sent = s.bus.sent := rfl

@[simp] theorem respond_bus_status (code : Byte) (tag : Half) (r : Reply) (s : State) :
    (respond code tag r s).bus.status = s.bus.status ||| Source.commandDone.mask := rfl

/-! ## `placeRequest` -/

@[simp] theorem placeRequest_inColdReset (h : Header) (op : PortOp) (s : State) :
    (placeRequest h op s).inColdReset = s.inColdReset := rfl

@[simp] theorem placeRequest_readiness (h : Header) (op : PortOp) (s : State) :
    (placeRequest h op s).readiness = s.readiness := rfl

@[simp] theorem placeRequest_unit (h : Header) (op : PortOp) (s : State) :
    (placeRequest h op s).unit = s.unit := rfl

@[simp] theorem placeRequest_gate (h : Header) (op : PortOp) (s : State) :
    (placeRequest h op s).gate = s.gate := rfl

@[simp] theorem placeRequest_engine (h : Header) (op : PortOp) (s : State) :
    (placeRequest h op s).engine = s.engine := rfl

@[simp] theorem placeRequest_bus (h : Header) (op : PortOp) (s : State) :
    (placeRequest h op s).bus = s.bus := rfl

@[simp] theorem placeRequest_fetchSerial (h : Header) (op : PortOp) (s : State) :
    (placeRequest h op s).fetchSerial = s.fetchSerial := rfl

@[simp] theorem placeRequest_linkTick (h : Header) (op : PortOp) (s : State) :
    (placeRequest h op s).linkTick = s.linkTick := rfl

@[simp] theorem placeRequest_pending (h : Header) (op : PortOp) (s : State) :
    (placeRequest h op s).pending = s.pending := rfl

@[simp] theorem placeRequest_port_phase (h : Header) (op : PortOp) (s : State) :
    (placeRequest h op s).port.phase = s.port.phase := rfl

@[simp] theorem placeRequest_port_done (h : Header) (op : PortOp) (s : State) :
    (placeRequest h op s).port.done = s.port.done := rfl

@[simp] theorem placeRequest_port_overrun (h : Header) (op : PortOp) (s : State) :
    (placeRequest h op s).port.overrun = s.port.overrun := rfl

@[simp] theorem placeRequest_port_responseBlock (h : Header) (op : PortOp) (s : State) :
    (placeRequest h op s).port.responseBlock = s.port.responseBlock := rfl

/-! ## `RecordUnit.start` -/

@[simp] theorem RecordUnit.start_records (u : RecordUnit) (g : Grant) (a : Arbiter) :
    (u.start g a).records = u.records := rfl

@[simp] theorem RecordUnit.start_index (u : RecordUnit) (g : Grant) (a : Arbiter) :
    (u.start g a).index = u.index := rfl

@[simp] theorem RecordUnit.start_ring (u : RecordUnit) (g : Grant) (a : Arbiter) :
    (u.start g a).ring = u.ring := rfl

@[simp] theorem RecordUnit.start_ringHead (u : RecordUnit) (g : Grant) (a : Arbiter) :
    (u.start g a).ringHead = u.ringHead := rfl

@[simp] theorem RecordUnit.start_ringTail (u : RecordUnit) (g : Grant) (a : Arbiter) :
    (u.start g a).ringTail = u.ringTail := rfl

@[simp] theorem RecordUnit.start_profiles (u : RecordUnit) (g : Grant) (a : Arbiter) :
    (u.start g a).profiles = u.profiles := rfl

@[simp] theorem RecordUnit.start_lots (u : RecordUnit) (g : Grant) (a : Arbiter) :
    (u.start g a).lots = u.lots := rfl

@[simp] theorem RecordUnit.start_regions (u : RecordUnit) (g : Grant) (a : Arbiter) :
    (u.start g a).regions = u.regions := rfl

@[simp] theorem RecordUnit.start_businessDay (u : RecordUnit) (g : Grant) (a : Arbiter) :
    (u.start g a).businessDay = u.businessDay := rfl

@[simp] theorem RecordUnit.start_freeze (u : RecordUnit) (g : Grant) (a : Arbiter) :
    (u.start g a).freeze = u.freeze := rfl

@[simp] theorem RecordUnit.start_sweep (u : RecordUnit) (g : Grant) (a : Arbiter) :
    (u.start g a).sweep = u.sweep := rfl

@[simp] theorem RecordUnit.start_survey (u : RecordUnit) (g : Grant) (a : Arbiter) :
    (u.start g a).survey = u.survey := rfl

@[simp] theorem RecordUnit.start_inProgress (u : RecordUnit) (g : Grant) (a : Arbiter) :
    (u.start g a).inProgress = some g := rfl

@[simp] theorem RecordUnit.start_arbiter (u : RecordUnit) (g : Grant) (a : Arbiter) :
    (u.start g a).arbiter = a := rfl

/-! ## `RecordUnit.putRecord` -/

@[simp] theorem RecordUnit.putRecord_index (u : RecordUnit) (r : LineRecord) :
    (u.putRecord r).index = u.index := rfl

@[simp] theorem RecordUnit.putRecord_ring (u : RecordUnit) (r : LineRecord) :
    (u.putRecord r).ring = u.ring := rfl

@[simp] theorem RecordUnit.putRecord_ringHead (u : RecordUnit) (r : LineRecord) :
    (u.putRecord r).ringHead = u.ringHead := rfl

@[simp] theorem RecordUnit.putRecord_ringTail (u : RecordUnit) (r : LineRecord) :
    (u.putRecord r).ringTail = u.ringTail := rfl

@[simp] theorem RecordUnit.putRecord_profiles (u : RecordUnit) (r : LineRecord) :
    (u.putRecord r).profiles = u.profiles := rfl

@[simp] theorem RecordUnit.putRecord_lots (u : RecordUnit) (r : LineRecord) :
    (u.putRecord r).lots = u.lots := rfl

@[simp] theorem RecordUnit.putRecord_regions (u : RecordUnit) (r : LineRecord) :
    (u.putRecord r).regions = u.regions := rfl

@[simp] theorem RecordUnit.putRecord_businessDay (u : RecordUnit) (r : LineRecord) :
    (u.putRecord r).businessDay = u.businessDay := rfl

@[simp] theorem RecordUnit.putRecord_freeze (u : RecordUnit) (r : LineRecord) :
    (u.putRecord r).freeze = u.freeze := rfl

@[simp] theorem RecordUnit.putRecord_sweep (u : RecordUnit) (r : LineRecord) :
    (u.putRecord r).sweep = u.sweep := rfl

@[simp] theorem RecordUnit.putRecord_survey (u : RecordUnit) (r : LineRecord) :
    (u.putRecord r).survey = u.survey := rfl

@[simp] theorem RecordUnit.putRecord_arbiter (u : RecordUnit) (r : LineRecord) :
    (u.putRecord r).arbiter = u.arbiter := rfl

@[simp] theorem RecordUnit.putRecord_inProgress (u : RecordUnit) (r : LineRecord) :
    (u.putRecord r).inProgress = u.inProgress := rfl

/-! ## `RecordUnit.dropRecord` -/

@[simp] theorem RecordUnit.dropRecord_index (u : RecordUnit) (slot : Nat) :
    (u.dropRecord slot).index = u.index := rfl

@[simp] theorem RecordUnit.dropRecord_ring (u : RecordUnit) (slot : Nat) :
    (u.dropRecord slot).ring = u.ring := rfl

@[simp] theorem RecordUnit.dropRecord_ringHead (u : RecordUnit) (slot : Nat) :
    (u.dropRecord slot).ringHead = u.ringHead := rfl

@[simp] theorem RecordUnit.dropRecord_ringTail (u : RecordUnit) (slot : Nat) :
    (u.dropRecord slot).ringTail = u.ringTail := rfl

@[simp] theorem RecordUnit.dropRecord_profiles (u : RecordUnit) (slot : Nat) :
    (u.dropRecord slot).profiles = u.profiles := rfl

@[simp] theorem RecordUnit.dropRecord_lots (u : RecordUnit) (slot : Nat) :
    (u.dropRecord slot).lots = u.lots := rfl

@[simp] theorem RecordUnit.dropRecord_regions (u : RecordUnit) (slot : Nat) :
    (u.dropRecord slot).regions = u.regions := rfl

@[simp] theorem RecordUnit.dropRecord_businessDay (u : RecordUnit) (slot : Nat) :
    (u.dropRecord slot).businessDay = u.businessDay := rfl

@[simp] theorem RecordUnit.dropRecord_freeze (u : RecordUnit) (slot : Nat) :
    (u.dropRecord slot).freeze = u.freeze := rfl

@[simp] theorem RecordUnit.dropRecord_sweep (u : RecordUnit) (slot : Nat) :
    (u.dropRecord slot).sweep = u.sweep := rfl

@[simp] theorem RecordUnit.dropRecord_survey (u : RecordUnit) (slot : Nat) :
    (u.dropRecord slot).survey = u.survey := rfl

@[simp] theorem RecordUnit.dropRecord_arbiter (u : RecordUnit) (slot : Nat) :
    (u.dropRecord slot).arbiter = u.arbiter := rfl

@[simp] theorem RecordUnit.dropRecord_inProgress (u : RecordUnit) (slot : Nat) :
    (u.dropRecord slot).inProgress = u.inProgress := rfl

/-! ## `RecordUnit.linkSlot` -/

@[simp] theorem RecordUnit.linkSlot_records (u : RecordUnit) (site lineNo slot : Nat) :
    (u.linkSlot site lineNo slot).records = u.records := rfl

@[simp] theorem RecordUnit.linkSlot_ring (u : RecordUnit) (site lineNo slot : Nat) :
    (u.linkSlot site lineNo slot).ring = u.ring := rfl

@[simp] theorem RecordUnit.linkSlot_ringHead (u : RecordUnit) (site lineNo slot : Nat) :
    (u.linkSlot site lineNo slot).ringHead = u.ringHead := rfl

@[simp] theorem RecordUnit.linkSlot_ringTail (u : RecordUnit) (site lineNo slot : Nat) :
    (u.linkSlot site lineNo slot).ringTail = u.ringTail := rfl

@[simp] theorem RecordUnit.linkSlot_profiles (u : RecordUnit) (site lineNo slot : Nat) :
    (u.linkSlot site lineNo slot).profiles = u.profiles := rfl

@[simp] theorem RecordUnit.linkSlot_lots (u : RecordUnit) (site lineNo slot : Nat) :
    (u.linkSlot site lineNo slot).lots = u.lots := rfl

@[simp] theorem RecordUnit.linkSlot_regions (u : RecordUnit) (site lineNo slot : Nat) :
    (u.linkSlot site lineNo slot).regions = u.regions := rfl

@[simp] theorem RecordUnit.linkSlot_businessDay (u : RecordUnit) (site lineNo slot : Nat) :
    (u.linkSlot site lineNo slot).businessDay = u.businessDay := rfl

@[simp] theorem RecordUnit.linkSlot_freeze (u : RecordUnit) (site lineNo slot : Nat) :
    (u.linkSlot site lineNo slot).freeze = u.freeze := rfl

@[simp] theorem RecordUnit.linkSlot_sweep (u : RecordUnit) (site lineNo slot : Nat) :
    (u.linkSlot site lineNo slot).sweep = u.sweep := rfl

@[simp] theorem RecordUnit.linkSlot_survey (u : RecordUnit) (site lineNo slot : Nat) :
    (u.linkSlot site lineNo slot).survey = u.survey := rfl

@[simp] theorem RecordUnit.linkSlot_arbiter (u : RecordUnit) (site lineNo slot : Nat) :
    (u.linkSlot site lineNo slot).arbiter = u.arbiter := rfl

@[simp] theorem RecordUnit.linkSlot_inProgress (u : RecordUnit) (site lineNo slot : Nat) :
    (u.linkSlot site lineNo slot).inProgress = u.inProgress := rfl

/-! ## `RecordUnit.unlinkSlot` -/

@[simp] theorem RecordUnit.unlinkSlot_records (u : RecordUnit) (site lineNo slot : Nat) :
    (u.unlinkSlot site lineNo slot).records = u.records := rfl

@[simp] theorem RecordUnit.unlinkSlot_ring (u : RecordUnit) (site lineNo slot : Nat) :
    (u.unlinkSlot site lineNo slot).ring = u.ring := rfl

@[simp] theorem RecordUnit.unlinkSlot_ringHead (u : RecordUnit) (site lineNo slot : Nat) :
    (u.unlinkSlot site lineNo slot).ringHead = u.ringHead := rfl

@[simp] theorem RecordUnit.unlinkSlot_ringTail (u : RecordUnit) (site lineNo slot : Nat) :
    (u.unlinkSlot site lineNo slot).ringTail = u.ringTail := rfl

@[simp] theorem RecordUnit.unlinkSlot_profiles (u : RecordUnit) (site lineNo slot : Nat) :
    (u.unlinkSlot site lineNo slot).profiles = u.profiles := rfl

@[simp] theorem RecordUnit.unlinkSlot_lots (u : RecordUnit) (site lineNo slot : Nat) :
    (u.unlinkSlot site lineNo slot).lots = u.lots := rfl

@[simp] theorem RecordUnit.unlinkSlot_regions (u : RecordUnit) (site lineNo slot : Nat) :
    (u.unlinkSlot site lineNo slot).regions = u.regions := rfl

@[simp] theorem RecordUnit.unlinkSlot_businessDay (u : RecordUnit) (site lineNo slot : Nat) :
    (u.unlinkSlot site lineNo slot).businessDay = u.businessDay := rfl

@[simp] theorem RecordUnit.unlinkSlot_freeze (u : RecordUnit) (site lineNo slot : Nat) :
    (u.unlinkSlot site lineNo slot).freeze = u.freeze := rfl

@[simp] theorem RecordUnit.unlinkSlot_sweep (u : RecordUnit) (site lineNo slot : Nat) :
    (u.unlinkSlot site lineNo slot).sweep = u.sweep := rfl

@[simp] theorem RecordUnit.unlinkSlot_survey (u : RecordUnit) (site lineNo slot : Nat) :
    (u.unlinkSlot site lineNo slot).survey = u.survey := rfl

@[simp] theorem RecordUnit.unlinkSlot_arbiter (u : RecordUnit) (site lineNo slot : Nat) :
    (u.unlinkSlot site lineNo slot).arbiter = u.arbiter := rfl

@[simp] theorem RecordUnit.unlinkSlot_inProgress (u : RecordUnit) (site lineNo slot : Nat) :
    (u.unlinkSlot site lineNo slot).inProgress = u.inProgress := rfl

/-! ## `RecordUnit.returnSlot` -/

@[simp] theorem RecordUnit.returnSlot_records (u : RecordUnit) (slot : Nat) :
    (u.returnSlot slot).records = u.records := rfl

@[simp] theorem RecordUnit.returnSlot_index (u : RecordUnit) (slot : Nat) :
    (u.returnSlot slot).index = u.index := rfl

@[simp] theorem RecordUnit.returnSlot_ringHead (u : RecordUnit) (slot : Nat) :
    (u.returnSlot slot).ringHead = u.ringHead := rfl

@[simp] theorem RecordUnit.returnSlot_profiles (u : RecordUnit) (slot : Nat) :
    (u.returnSlot slot).profiles = u.profiles := rfl

@[simp] theorem RecordUnit.returnSlot_lots (u : RecordUnit) (slot : Nat) :
    (u.returnSlot slot).lots = u.lots := rfl

@[simp] theorem RecordUnit.returnSlot_regions (u : RecordUnit) (slot : Nat) :
    (u.returnSlot slot).regions = u.regions := rfl

@[simp] theorem RecordUnit.returnSlot_businessDay (u : RecordUnit) (slot : Nat) :
    (u.returnSlot slot).businessDay = u.businessDay := rfl

@[simp] theorem RecordUnit.returnSlot_freeze (u : RecordUnit) (slot : Nat) :
    (u.returnSlot slot).freeze = u.freeze := rfl

@[simp] theorem RecordUnit.returnSlot_sweep (u : RecordUnit) (slot : Nat) :
    (u.returnSlot slot).sweep = u.sweep := rfl

@[simp] theorem RecordUnit.returnSlot_survey (u : RecordUnit) (slot : Nat) :
    (u.returnSlot slot).survey = u.survey := rfl

@[simp] theorem RecordUnit.returnSlot_arbiter (u : RecordUnit) (slot : Nat) :
    (u.returnSlot slot).arbiter = u.arbiter := rfl

@[simp] theorem RecordUnit.returnSlot_inProgress (u : RecordUnit) (slot : Nat) :
    (u.returnSlot slot).inProgress = u.inProgress := rfl

/-! ## `RecordUnit.modifyProfile` -/

@[simp] theorem RecordUnit.modifyProfile_records (u : RecordUnit) (i : Fin 32) (f : Profile → Profile) :
    (u.modifyProfile i f).records = u.records := rfl

@[simp] theorem RecordUnit.modifyProfile_index (u : RecordUnit) (i : Fin 32) (f : Profile → Profile) :
    (u.modifyProfile i f).index = u.index := rfl

@[simp] theorem RecordUnit.modifyProfile_ring (u : RecordUnit) (i : Fin 32) (f : Profile → Profile) :
    (u.modifyProfile i f).ring = u.ring := rfl

@[simp] theorem RecordUnit.modifyProfile_ringHead (u : RecordUnit) (i : Fin 32) (f : Profile → Profile) :
    (u.modifyProfile i f).ringHead = u.ringHead := rfl

@[simp] theorem RecordUnit.modifyProfile_ringTail (u : RecordUnit) (i : Fin 32) (f : Profile → Profile) :
    (u.modifyProfile i f).ringTail = u.ringTail := rfl

@[simp] theorem RecordUnit.modifyProfile_lots (u : RecordUnit) (i : Fin 32) (f : Profile → Profile) :
    (u.modifyProfile i f).lots = u.lots := rfl

@[simp] theorem RecordUnit.modifyProfile_regions (u : RecordUnit) (i : Fin 32) (f : Profile → Profile) :
    (u.modifyProfile i f).regions = u.regions := rfl

@[simp] theorem RecordUnit.modifyProfile_businessDay (u : RecordUnit) (i : Fin 32) (f : Profile → Profile) :
    (u.modifyProfile i f).businessDay = u.businessDay := rfl

@[simp] theorem RecordUnit.modifyProfile_freeze (u : RecordUnit) (i : Fin 32) (f : Profile → Profile) :
    (u.modifyProfile i f).freeze = u.freeze := rfl

@[simp] theorem RecordUnit.modifyProfile_sweep (u : RecordUnit) (i : Fin 32) (f : Profile → Profile) :
    (u.modifyProfile i f).sweep = u.sweep := rfl

@[simp] theorem RecordUnit.modifyProfile_survey (u : RecordUnit) (i : Fin 32) (f : Profile → Profile) :
    (u.modifyProfile i f).survey = u.survey := rfl

@[simp] theorem RecordUnit.modifyProfile_arbiter (u : RecordUnit) (i : Fin 32) (f : Profile → Profile) :
    (u.modifyProfile i f).arbiter = u.arbiter := rfl

@[simp] theorem RecordUnit.modifyProfile_inProgress (u : RecordUnit) (i : Fin 32) (f : Profile → Profile) :
    (u.modifyProfile i f).inProgress = u.inProgress := rfl

/-! ## `RecordUnit.modifyLot` -/

@[simp] theorem RecordUnit.modifyLot_records (u : RecordUnit) (i : Fin 64) (f : Lot → Lot) :
    (u.modifyLot i f).records = u.records := rfl

@[simp] theorem RecordUnit.modifyLot_index (u : RecordUnit) (i : Fin 64) (f : Lot → Lot) :
    (u.modifyLot i f).index = u.index := rfl

@[simp] theorem RecordUnit.modifyLot_ring (u : RecordUnit) (i : Fin 64) (f : Lot → Lot) :
    (u.modifyLot i f).ring = u.ring := rfl

@[simp] theorem RecordUnit.modifyLot_ringHead (u : RecordUnit) (i : Fin 64) (f : Lot → Lot) :
    (u.modifyLot i f).ringHead = u.ringHead := rfl

@[simp] theorem RecordUnit.modifyLot_ringTail (u : RecordUnit) (i : Fin 64) (f : Lot → Lot) :
    (u.modifyLot i f).ringTail = u.ringTail := rfl

@[simp] theorem RecordUnit.modifyLot_profiles (u : RecordUnit) (i : Fin 64) (f : Lot → Lot) :
    (u.modifyLot i f).profiles = u.profiles := rfl

@[simp] theorem RecordUnit.modifyLot_regions (u : RecordUnit) (i : Fin 64) (f : Lot → Lot) :
    (u.modifyLot i f).regions = u.regions := rfl

@[simp] theorem RecordUnit.modifyLot_businessDay (u : RecordUnit) (i : Fin 64) (f : Lot → Lot) :
    (u.modifyLot i f).businessDay = u.businessDay := rfl

@[simp] theorem RecordUnit.modifyLot_freeze (u : RecordUnit) (i : Fin 64) (f : Lot → Lot) :
    (u.modifyLot i f).freeze = u.freeze := rfl

@[simp] theorem RecordUnit.modifyLot_sweep (u : RecordUnit) (i : Fin 64) (f : Lot → Lot) :
    (u.modifyLot i f).sweep = u.sweep := rfl

@[simp] theorem RecordUnit.modifyLot_survey (u : RecordUnit) (i : Fin 64) (f : Lot → Lot) :
    (u.modifyLot i f).survey = u.survey := rfl

@[simp] theorem RecordUnit.modifyLot_arbiter (u : RecordUnit) (i : Fin 64) (f : Lot → Lot) :
    (u.modifyLot i f).arbiter = u.arbiter := rfl

@[simp] theorem RecordUnit.modifyLot_inProgress (u : RecordUnit) (i : Fin 64) (f : Lot → Lot) :
    (u.modifyLot i f).inProgress = u.inProgress := rfl

/-! ## `RecordUnit.modifyRegion` -/

@[simp] theorem RecordUnit.modifyRegion_records (u : RecordUnit) (i : Fin 64) (f : Region → Region) :
    (u.modifyRegion i f).records = u.records := rfl

@[simp] theorem RecordUnit.modifyRegion_index (u : RecordUnit) (i : Fin 64) (f : Region → Region) :
    (u.modifyRegion i f).index = u.index := rfl

@[simp] theorem RecordUnit.modifyRegion_ring (u : RecordUnit) (i : Fin 64) (f : Region → Region) :
    (u.modifyRegion i f).ring = u.ring := rfl

@[simp] theorem RecordUnit.modifyRegion_ringHead (u : RecordUnit) (i : Fin 64) (f : Region → Region) :
    (u.modifyRegion i f).ringHead = u.ringHead := rfl

@[simp] theorem RecordUnit.modifyRegion_ringTail (u : RecordUnit) (i : Fin 64) (f : Region → Region) :
    (u.modifyRegion i f).ringTail = u.ringTail := rfl

@[simp] theorem RecordUnit.modifyRegion_profiles (u : RecordUnit) (i : Fin 64) (f : Region → Region) :
    (u.modifyRegion i f).profiles = u.profiles := rfl

@[simp] theorem RecordUnit.modifyRegion_lots (u : RecordUnit) (i : Fin 64) (f : Region → Region) :
    (u.modifyRegion i f).lots = u.lots := rfl

@[simp] theorem RecordUnit.modifyRegion_businessDay (u : RecordUnit) (i : Fin 64) (f : Region → Region) :
    (u.modifyRegion i f).businessDay = u.businessDay := rfl

@[simp] theorem RecordUnit.modifyRegion_freeze (u : RecordUnit) (i : Fin 64) (f : Region → Region) :
    (u.modifyRegion i f).freeze = u.freeze := rfl

@[simp] theorem RecordUnit.modifyRegion_sweep (u : RecordUnit) (i : Fin 64) (f : Region → Region) :
    (u.modifyRegion i f).sweep = u.sweep := rfl

@[simp] theorem RecordUnit.modifyRegion_survey (u : RecordUnit) (i : Fin 64) (f : Region → Region) :
    (u.modifyRegion i f).survey = u.survey := rfl

@[simp] theorem RecordUnit.modifyRegion_arbiter (u : RecordUnit) (i : Fin 64) (f : Region → Region) :
    (u.modifyRegion i f).arbiter = u.arbiter := rfl

@[simp] theorem RecordUnit.modifyRegion_inProgress (u : RecordUnit) (i : Fin 64) (f : Region → Region) :
    (u.modifyRegion i f).inProgress = u.inProgress := rfl

/-! ## `Touch` -/

@[simp] theorem Touch.mapLine_line (t : Touch) (f : LineRecord → LineRecord) :
    (t.mapLine f).line = f t.line := rfl

@[simp] theorem Touch.mapLine_unit (t : Touch) (f : LineRecord → LineRecord) :
    (t.mapLine f).unit = t.unit := rfl

@[simp] theorem Touch.mapLine_attention (t : Touch) (f : LineRecord → LineRecord) :
    (t.mapLine f).attention = t.attention := rfl

@[simp] theorem Touch.mapUnit_line (t : Touch) (f : RecordUnit → RecordUnit) :
    (t.mapUnit f).line = t.line := rfl

@[simp] theorem Touch.mapUnit_unit (t : Touch) (f : RecordUnit → RecordUnit) :
    (t.mapUnit f).unit = f t.unit := rfl

@[simp] theorem Touch.mapUnit_attention (t : Touch) (f : RecordUnit → RecordUnit) :
    (t.mapUnit f).attention = t.attention := rfl

@[simp] theorem Touch.bumpVersion_line (t : Touch) :
    (t.bumpVersion).line = { t.line with version := t.line.version + 1 } := rfl

@[simp] theorem Touch.bumpVersion_unit (t : Touch) :
    (t.bumpVersion).unit = t.unit := rfl

@[simp] theorem Touch.bumpVersion_attention (t : Touch) :
    (t.bumpVersion).attention = t.attention := rfl

end Sys2Proof.Machine
end

