-- ==== Sys2Proof/Laws/Batch.lean ====
section
/-! SUPPORT. What the shared operations of the Batch Engine can do: issuing a fetch, promotion, the
end of a batch, and the processing of a reading. -/

namespace Sys2Proof.Machine

open Sys2Proof

/-- Issuing the fetch of FRONT's reading (R168, R186). -/
theorem issueFetch_of_front {s : State} {f : Front} (hf : s.engine.front = some f) :
    s.issueFetch =
      { s with
        fetchSerial := s.fetchSerial + 1
        engine := { s.engine with
          flight := some (.fetch s.fetchSerial (fetchReads s.bus.busMaster f.source)) } } := by
  have hr : (if s.bus.busMaster then
      (splitAccess f.source readingLength).map fun p => (⟨p.1, p.2⟩ : LinkRead) else []) =
      fetchReads s.bus.busMaster f.source := by
    unfold fetchReads splitAccess readingLength
    cases s.bus.busMaster <;> simp
    split <;> simp
  unfold State.issueFetch
  rw [hf]
  simp only [hr]

/-- Promotion (R167). -/
theorem promote_eq (s : State) :
    s.promote =
      { s with
        fetchSerial := if s.engine.pauseRequested then s.fetchSerial else s.fetchSerial + 1
        engine := promotedEngine s.engine s.engine.report s.bus.busMaster s.fetchSerial
        bus := { s.bus with status := s.bus.status ||| Source.nextTaken.mask } } := by
  unfold State.promote
  cases hp : s.engine.pauseRequested
  · rw [if_neg (by simp), issueFetch_of_front (f := s.engine.next.toFront) (by simp)]
    simp [promotedEngine, hp, State.mapEngine, State.latch, Descriptor.toFront]
  · simp [promotedEngine, hp, State.mapEngine, State.latch, Descriptor.toFront]

/-- The end of a batch that promotes nothing (R174). -/
theorem endBatch_ended {s : State} {f : Front} {cause : EndCause} (hf : s.engine.front = some f)
    (hn : cause = .complete → s.engine.armed = false) :
    s.endBatch cause =
      { s with
        engine := endedEngine s.engine f cause
        bus := { s.bus with status := s.bus.status ||| Source.batchEnd.mask } } := by
  have h1 : (s.engine.armed && cause == .complete) = false := by
    cases cause <;> simp_all
  have h2 : (s.engine.armed && cause != .complete) = s.engine.armed := by
    cases cause <;> simp_all
  unfold State.endBatch
  rw [hf]
  simp [h1, h2, State.mapEngine, State.latch, BatchEngine.dropFront, endedEngine, endReport]

/-- The end of a batch on COMPLETE with NEXT armed: NEXT is promoted (R174). -/
theorem endBatch_promoted {s : State} {f : Front} (hf : s.engine.front = some f)
    (ha : s.engine.armed = true) :
    s.endBatch .complete =
      { s with
        fetchSerial := if s.engine.pauseRequested then s.fetchSerial else s.fetchSerial + 1
        engine := promotedEngine s.engine
          ⟨.complete, f.processed, f.remaining, f.source, f.result, false⟩ s.bus.busMaster
          s.fetchSerial
        bus := { s.bus with
          status := s.bus.status ||| Source.batchEnd.mask ||| Source.nextTaken.mask } } := by
  unfold State.endBatch
  rw [hf]
  simp only [ha, beq_self_eq_true, Bool.and_self, if_true, promote_eq]
  simp [State.mapEngine, State.latch, endReport, promotedEngine]

/-- The part with a verdict's writes behind everything issued before (R172, R187). -/
theorem postWrite_eq (s : State) (address : DWord) (bytes : List Byte) :
    s.postWrite address bytes =
      { s with
        bus := { s.bus with
          outbound := s.bus.outbound ++
            if s.bus.busMaster then writeItems address bytes else [] } } := by
  unfold State.postWrite
  split
  · rfl
  · rw [List.append_nil]

/-- A reading processed whose batch ends (R172 to R174). -/
theorem processReading_ended {s : State} {v : Verdict} {f : Front} {cause : EndCause}
    (hf : s.engine.front = some f)
    (hc : endCauseOf f.advance s.engine.abortPending v = some cause) :
    s.processReading v =
      ((s.postWrite f.result v.bytes).mapEngine fun e =>
        { e with
          front := some f.advance
          flight := none }).endBatch cause := by
  unfold State.processReading
  rw [hf]
  simp only [State.mapEngine_engine, State.postWrite_engine, hc]

/-- A reading processed whose batch goes on: the engine pauses, or issues the next fetch (R172, R173,
R176). -/
theorem processReading_goesOn {s : State} {v : Verdict} {f : Front} (hf : s.engine.front = some f)
    (hc : endCauseOf f.advance s.engine.abortPending v = none) :
    s.processReading v =
      { s.postWrite f.result v.bytes with
        fetchSerial := if s.engine.pauseRequested then s.fetchSerial else s.fetchSerial + 1
        engine := { s.engine with
          phase := if s.engine.pauseRequested then .paused else s.engine.phase
          front := some f.advance
          pauseRequested := false
          flight := if s.engine.pauseRequested then none
            else some (.fetch s.fetchSerial (fetchReads s.bus.busMaster f.advance.source)) } } := by
  unfold State.processReading
  rw [hf]
  simp only [State.mapEngine_engine, State.postWrite_engine, hc]
  cases hp : s.engine.pauseRequested
  · rw [if_neg (by simp), issueFetch_of_front (f := f.advance) (by simp)]
    simp [State.mapEngine, hp]
  · simp [State.mapEngine]

/-- A verdict write is one write, or two split at the 4 KiB boundary it crosses (R187; log 31). -/
theorem writeItems_eq (address : DWord) (bytes : List Byte) :
    writeItems address bytes =
      if bytes.length ≤ 4096 - address.toNat % 4096 then [.write address bytes]
      else
        [.write address (bytes.take (4096 - address.toNat % 4096)),
         .write (address + BitVec.ofNat 64 (4096 - address.toNat % 4096))
          (bytes.drop (4096 - address.toNat % 4096))] := by
  by_cases h : bytes.length ≤ 4096 - address.toNat % 4096 <;> simp [writeItems, splitAccess, h]

end Sys2Proof.Machine
end

