-- ==== Sys2Proof/Laws/Bytes.lean ====
section
/-! SUPPORT. What the byte operations do: little-endian fields, storing bytes, reading fields back,
and the entries of a per-point field. -/

namespace Sys2Proof.Machine

open Sys2Proof

@[simp] theorem bytesLE_length (width value : Nat) : (bytesLE width value).length = width := by
  induction width generalizing value with
  | zero => rfl
  | succ n ih => simp [bytesLE, ih]

/-- A field of `width` bytes holds its value modulo 256 to the width. -/
theorem leVal_bytesLE (width value : Nat) : leVal (bytesLE width value) = value % 256 ^ width := by
  induction width generalizing value with
  | zero => simp [bytesLE, leVal, Nat.mod_one]
  | succ n ih =>
    simp only [bytesLE, leVal, ih, BitVec.toNat_ofNat]
    rw [show 256 ^ (n + 1) = 256 * 256 ^ n by ring, Nat.mod_mul]

theorem leVal_lt (l : List Byte) : leVal l < 256 ^ l.length := by
  induction l with
  | nil => simp [leVal]
  | cons b bs ih =>
    have h := b.isLt
    simp only [leVal, List.length_cons, pow_succ]
    omega

/-- A field that fits its width reads back as it was placed. -/
theorem leVal_bytesLE_of_lt {width value : Nat} (h : value < 256 ^ width) :
    leVal (bytesLE width value) = value := by
  rw [leVal_bytesLE, Nat.mod_eq_of_lt h]

/-- What storing bytes leaves at each place of a block. -/
theorem storeBytes_getElem {n : Nat} (v : Vector Byte n) (offset : Nat) (bytes : List Byte)
    (i : Nat) (hi : i < n) :
    (storeBytes v offset bytes)[i] =
      if h : offset ≤ i ∧ i - offset < bytes.length then bytes[i - offset]'h.2 else v[i] := by
  induction bytes generalizing v offset with
  | nil => simp [storeBytes]
  | cons b bs ih =>
    rw [storeBytes, ih]
    by_cases h1 : offset + 1 ≤ i ∧ i - (offset + 1) < bs.length
    · have h2 : offset ≤ i ∧ i - offset < (b :: bs).length := by
        simp only [List.length_cons]; omega
      rw [dif_pos h1, dif_pos h2]
      have : i - offset = (i - (offset + 1)) + 1 := by omega
      simp [this]
    · rw [dif_neg h1]
      by_cases h3 : i = offset
      · subst h3
        have h2 : i ≤ i ∧ i - i < (b :: bs).length := by simp
        rw [dif_pos h2]
        simp
      · have h2 : ¬(offset ≤ i ∧ i - offset < (b :: bs).length) := by
          simp only [List.length_cons]; omega
        rw [dif_neg h2, Vector.getElem_setIfInBounds, if_neg (by omega)]

/-- Storing the same bytes at the same place again changes nothing. -/
theorem storeBytes_idem {n : Nat} (v : Vector Byte n) (offset : Nat) (bytes : List Byte) :
    storeBytes (storeBytes v offset bytes) offset bytes = storeBytes v offset bytes := by
  ext i hi
  rw [storeBytes_getElem, storeBytes_getElem]
  split <;> rfl

/-- The bytes stored from offset 0 of a block that has room for them stand at its beginning. -/
theorem storeBytes_take {n : Nat} (v : Vector Byte n) (bytes : List Byte) (h : bytes.length ≤ n) :
    (storeBytes v 0 bytes).toList.take bytes.length = bytes := by
  apply List.ext_getElem
  · simp; omega
  · intro i h1 h2
    have hi : i < n := by omega
    simp only [List.getElem_take, Vector.getElem_toList]
    rw [storeBytes_getElem v 0 bytes i hi]
    simp [h2]

/-- A field inside the beginning of a list reads the same in that beginning alone. -/
theorem leAt_take (l : List Byte) (n offset width : Nat) (h : offset + width ≤ n) :
    leAt (l.take n) offset width = leAt l offset width := by
  unfold leAt
  rw [List.drop_take, List.take_take, Nat.min_eq_left (by omega)]

/-- A field read from bytes followed by others. -/
theorem leAt_append_right (a b : List Byte) (offset width : Nat) :
    leAt (a ++ b) (a.length + offset) width = leAt b offset width := by
  unfold leAt
  rw [List.drop_append, List.drop_eq_nil_of_le (by omega)]
  simp

/-- A field placed at the beginning of bytes reads back. -/
theorem leAt_bytesLE_append (width value : Nat) (rest : List Byte) :
    leAt (bytesLE width value ++ rest) 0 width = value % 256 ^ width := by
  unfold leAt
  rw [List.drop_zero, List.take_append_of_le_length (by simp)]
  rw [List.take_of_length_le (by simp), leVal_bytesLE]

theorem leAt_lt (l : List Byte) (offset width : Nat) : leAt l offset width < 256 ^ width :=
  lt_of_lt_of_le (leVal_lt _) (Nat.pow_le_pow_right (by decide) (by simp))

/-! ## Fields placed one after another (R193) -/

/-- Where a field of a width stands that is placed at or after an offset: at the next multiple of its
width. -/
def placeOf (offset width : Nat) : Nat := offset + (width - offset % width) % width

/-- Where the field number `k` stands of fields of the widths given, placed from an offset; past the
last field, where the bytes end. -/
def placeAt : Nat → List Nat → Nat → Nat
  | offset, [], _ => offset
  | offset, width :: _, 0 => placeOf offset width
  | offset, width :: rest, k + 1 => placeAt (placeOf offset width + width) rest k

theorem placeAt_ge (offset : Nat) (widths : List Nat) (k : Nat) :
    offset ≤ placeAt offset widths k := by
  induction widths generalizing offset k with
  | nil => simp [placeAt]
  | cons w ws ih =>
    cases k with
    | zero => exact Nat.le_add_right _ _
    | succ k =>
      refine Nat.le_trans ?_ (ih (placeOf offset w + w) k)
      simp only [placeOf]
      omega

/-- The bytes of a first field and those of the rest. -/
theorem placeFields_cons (offset : Nat) (f : Field) (fs : List Field) :
    placeFields offset (f :: fs) =
      (List.replicate (placeOf offset f.width - offset) 0 ++ bytesLE f.width f.value) ++
        placeFields (placeOf offset f.width + f.width) fs := by
  simp only [placeFields, placeOf]
  rw [Nat.add_sub_cancel_left]

/-- A field of a list reads back at its place. -/
theorem leAt_placeFields {offset k : Nat} {fs : List Field} {f : Field} (h : fs[k]? = some f) :
    leAt (placeFields offset fs) (placeAt offset (fs.map Field.width) k - offset) f.width =
      f.value % 256 ^ f.width := by
  induction fs generalizing offset k with
  | nil => simp at h
  | cons g gs ih =>
    rw [placeFields_cons, List.map_cons]
    cases k with
    | zero =>
      obtain rfl : g = f := by simpa using h
      rw [List.append_assoc]
      have := leAt_append_right (List.replicate (placeOf offset g.width - offset) 0)
        (bytesLE g.width g.value ++ placeFields (placeOf offset g.width + g.width) gs) 0 g.width
      simp only [List.length_replicate, Nat.add_zero] at this
      rw [placeAt, this, leAt_bytesLE_append]
    | succ k =>
      have hk : gs[k]? = some f := by simpa using h
      have hp := placeAt_ge (placeOf offset g.width + g.width) (gs.map Field.width) k
      have ho : offset ≤ placeOf offset g.width := Nat.le_add_right _ _
      have := leAt_append_right
        (List.replicate (placeOf offset g.width - offset) 0 ++ bytesLE g.width g.value)
        (placeFields (placeOf offset g.width + g.width) gs)
        (placeAt (placeOf offset g.width + g.width) (gs.map Field.width) k -
          (placeOf offset g.width + g.width)) f.width
      simp only [List.length_append, List.length_replicate, bytesLE_length] at this
      rw [placeAt, ← ih hk, ← this]
      congr 1
      omega

/-- The bytes a list of fields takes, placed from an offset. -/
theorem placeFields_length (offset : Nat) (fs : List Field) :
    (placeFields offset fs).length = placeAt offset (fs.map Field.width) fs.length - offset := by
  induction fs generalizing offset with
  | nil => simp [placeFields, placeAt]
  | cons f fs ih =>
    have hp := placeAt_ge (placeOf offset f.width + f.width) (fs.map Field.width) fs.length
    have ho : offset ≤ placeOf offset f.width := Nat.le_add_right _ _
    rw [placeFields_cons]
    simp only [List.length_append, List.length_replicate, bytesLE_length, ih, List.length_cons,
      List.map_cons, placeAt]
    omega

/-- A block begins with the bytes given and holds 0 in every other place. -/
theorem blockOf_toList (n : Nat) (bytes : List Byte) :
    (blockOf n bytes).toList = (bytes ++ List.replicate n 0).take n := by
  apply List.ext_getElem
  · simp
  · intro i h1 h2
    have hi : i < n := by simpa using h1
    simp only [Vector.getElem_toList, List.getElem_take, blockOf]
    rw [storeBytes_getElem _ _ _ i hi]
    by_cases h : i < bytes.length
    · rw [dif_pos ⟨Nat.zero_le i, by simpa using h⟩, List.getElem_append_left h]
      simp
    · rw [dif_neg (by simp; omega), List.getElem_append_right (by omega)]
      simp

theorem leVal_append_zeros (l : List Byte) (n : Nat) :
    leVal (l ++ List.replicate n 0) = leVal l := by
  induction l with
  | nil =>
    induction n with
    | zero => rfl
    | succ n ih => simpa [List.replicate_succ, leVal] using ih
  | cons b bs ih => rw [List.cons_append, leVal, leVal, ih]

/-- A field of a block reads as the bytes it begins with give it, a missing byte being 0. -/
theorem leAt_blockOf {n : Nat} (bytes : List Byte) {offset width : Nat} (h : offset + width ≤ n) :
    leAt (blockOf n bytes).toList offset width = leAt bytes offset width := by
  rw [blockOf_toList, leAt_take _ _ _ _ h]
  unfold leAt
  rw [List.drop_append, List.take_append, List.drop_replicate, List.take_replicate,
    leVal_append_zeros]

/-- The entry of a per-point field built from its entries. -/
@[simp] theorem build12_getElem {α : Type} (f : Fin 12 → α) (i : Fin 12) : (build12 f)[i] = f i := by
  fin_cases i <;> rfl

/-- The entry of a per-quantity field built from its entries. -/
@[simp] theorem build4_getElem {α : Type} (f : Fin 4 → α) (i : Fin 4) : (build4 f)[i] = f i := by
  fin_cases i <;> rfl

/-- Every position is among the plot points listed. -/
theorem mem_points (i : Fin 12) : i ∈ points := by
  fin_cases i <;> decide

end Sys2Proof.Machine
end

