-- ==== Sys2Proof/Laws/Records.lean ====
section
/-! SUPPORT. What the operations on the record list, the key index and the tables do: reading a slot
after a record was put or dropped, what a lookup finds, and the entries the count operations touch. -/

namespace Sys2Proof.Machine

open Sys2Proof

/-! ## The record list -/

/-- A record read from a slot is one of the live records and stands in that slot. -/
theorem recordAt_spec {u : RecordUnit} {slot : Nat} {r : LineRecord}
    (h : u.recordAt slot = some r) : r ∈ u.records ∧ r.slot = slot := by
  unfold RecordUnit.recordAt at h
  refine ⟨List.mem_of_find?_eq_some h, ?_⟩
  have := List.find?_some h
  simpa using this

theorem find_slot_map (l : List LineRecord) (r : LineRecord) (slot : Nat) :
    (l.map fun x => if x.slot = r.slot then r else x).find? (fun x => x.slot == slot) =
      if r.slot = slot then (l.find? fun x => x.slot == slot).map fun _ => r
      else l.find? fun x => x.slot == slot := by
  induction l with
  | nil => simp
  | cons x xs ih =>
    simp only [List.map_cons, List.find?_cons]
    by_cases hx : x.slot = r.slot
    · rw [if_pos hx]
      by_cases hr : r.slot = slot
      · have hxs : (x.slot == slot) = true := by simp [hx, hr]
        have hrs : (r.slot == slot) = true := by simp [hr]
        simp [hr, hxs]
      · have hrs : (r.slot == slot) = false := by simp [hr]
        have hxs : (x.slot == slot) = false := by simp [hx, hr]
        rw [hrs, hxs, if_neg hr]
        simpa [hr] using ih
    · rw [if_neg hx]
      by_cases hxs : x.slot = slot
      · have h1 : (x.slot == slot) = true := by simp [hxs]
        have h2 : r.slot ≠ slot := fun e => hx (by rw [hxs, e])
        simp [h1, h2]
      · have h1 : (x.slot == slot) = false := by simp [hxs]
        rw [h1]
        simpa using ih

/-- Reading a slot after a record was put: the record in its own slot where one was live, every other
slot as before. -/
theorem recordAt_putRecord (u : RecordUnit) (r : LineRecord) (slot : Nat) :
    (u.putRecord r).recordAt slot =
      if r.slot = slot then (u.recordAt slot).map fun _ => r else u.recordAt slot :=
  find_slot_map u.records r slot

theorem recordAt_putRecord_other (u : RecordUnit) (r : LineRecord) {slot : Nat}
    (h : slot ≠ r.slot) : (u.putRecord r).recordAt slot = u.recordAt slot := by
  rw [recordAt_putRecord, if_neg (Ne.symm h)]

theorem recordAt_putRecord_same {u : RecordUnit} {r x : LineRecord}
    (h : u.recordAt r.slot = some x) : (u.putRecord r).recordAt r.slot = some r := by
  rw [recordAt_putRecord, if_pos rfl, h]
  rfl

/-- The records other than those of one slot are those of the list, in order. -/
theorem mem_putRecord {u : RecordUnit} {r x : LineRecord} (h : x ∈ (u.putRecord r).records) :
    x = r ∨ x ∈ u.records := by
  simp only [RecordUnit.putRecord, List.mem_map] at h
  obtain ⟨y, hy, rfl⟩ := h
  by_cases e : y.slot = r.slot
  · simp [e]
  · simp [e, hy]

/-- The slots in the list do not change when a record is put. -/
theorem slots_putRecord (u : RecordUnit) (r : LineRecord) :
    (u.putRecord r).records.map (·.slot) = u.records.map (·.slot) := by
  simp only [RecordUnit.putRecord, List.map_map]
  apply List.map_congr_left
  intro x _
  by_cases e : x.slot = r.slot <;> simp [e]

/-- The record a walk reaches is live, at or above the slot it starts from. -/
theorem nextLive_spec {u : RecordUnit} {slot : Nat} {r : LineRecord}
    (h : u.nextLive slot = some r) : r ∈ u.records ∧ slot ≤ r.slot := by
  unfold RecordUnit.nextLive at h
  refine ⟨List.mem_of_find?_eq_some h, ?_⟩
  have := List.find?_some h
  simpa using this

/-- A walk that reaches no record has no live slot left. -/
theorem nextLive_none {u : RecordUnit} {slot : Nat} (h : u.nextLive slot = none) :
    ∀ r ∈ u.records, r.slot < slot := by
  intro r hr
  unfold RecordUnit.nextLive at h
  have := List.find?_eq_none.mp h r hr
  simpa using this

/-! ## The key index -/

/-- A lookup finds a live record with the key, in the slot it reports. -/
theorem findInChain_spec {u : RecordUnit} {site lineNo : Nat} {chain : List Nat} {r : LineRecord}
    (h : findInChain u site lineNo chain = some r) :
    u.recordAt r.slot = some r ∧ r.site = site ∧ r.lineNo = lineNo ∧ r.slot ∈ chain := by
  induction chain with
  | nil => simp [findInChain] at h
  | cons slot rest ih =>
    simp only [findInChain] at h
    split at h
    · rename_i x hx
      split at h
      · rename_i hk
        cases h
        have := (recordAt_spec hx).2
        subst this
        exact ⟨hx, hk.1, hk.2, by simp⟩
      · obtain ⟨a, b, c, d⟩ := ih h
        exact ⟨a, b, c, by simp [d]⟩
    · obtain ⟨a, b, c, d⟩ := ih h
      exact ⟨a, b, c, by simp [d]⟩

theorem lookup_spec {u : RecordUnit} {site lineNo : Nat} {r : LineRecord}
    (h : u.lookup site lineNo = some r) :
    u.recordAt r.slot = some r ∧ r.site = site ∧ r.lineNo = lineNo :=
  let ⟨a, b, c, _⟩ := findInChain_spec h
  ⟨a, b, c⟩

/-- A lookup depends on the records and the index alone. -/
theorem findInChain_congr {u v : RecordUnit} (h : u.records = v.records) (site lineNo : Nat)
    (chain : List Nat) : findInChain u site lineNo chain = findInChain v site lineNo chain := by
  induction chain with
  | nil => rfl
  | cons slot rest ih =>
    simp only [findInChain, RecordUnit.recordAt, h, ih]

theorem lookup_congr {u v : RecordUnit} (hr : u.records = v.records) (hi : u.index = v.index)
    (site lineNo : Nat) : u.lookup site lineNo = v.lookup site lineNo := by
  unfold RecordUnit.lookup
  rw [hi]
  exact findInChain_congr hr site lineNo _

@[simp] theorem lookup_start (u : RecordUnit) (g : Grant) (a : Arbiter) (site lineNo : Nat) :
    (u.start g a).lookup site lineNo = u.lookup site lineNo :=
  lookup_congr (u := u.start g a) (v := u) rfl rfl site lineNo

/-! ## Table entries -/

theorem modifyLot_lots (u : RecordUnit) (i j : Fin 64) (f : Lot → Lot) :
    (u.modifyLot i f).lots[j] = if i = j then f u.lots[i] else u.lots[j] := by
  simp only [RecordUnit.modifyLot, Fin.getElem_fin]
  rw [Vector.getElem_set]
  by_cases h : i = j
  · simp [h]
  · have : i.val ≠ j.val := fun e => h (Fin.ext e)
    simp [h, this]

theorem modifyProfile_profiles (u : RecordUnit) (i j : Fin 32) (f : Profile → Profile) :
    (u.modifyProfile i f).profiles[j] = if i = j then f u.profiles[i] else u.profiles[j] := by
  simp only [RecordUnit.modifyProfile, Fin.getElem_fin]
  rw [Vector.getElem_set]
  by_cases h : i = j
  · simp [h]
  · have : i.val ≠ j.val := fun e => h (Fin.ext e)
    simp [h, this]

theorem modifyRegion_regions (u : RecordUnit) (i j : Fin 64) (f : Region → Region) :
    (u.modifyRegion i f).regions[j] = if i = j then f u.regions[i] else u.regions[j] := by
  simp only [RecordUnit.modifyRegion, Fin.getElem_fin]
  rw [Vector.getElem_set]
  by_cases h : i = j
  · simp [h]
  · have : i.val ≠ j.val := fun e => h (Fin.ext e)
    simp [h, this]

/-- A lot that a code finds is OPEN or WITHDRAWN and holds the code (R36). -/
theorem findLot_spec {u : RecordUnit} {code : Word} {i : Fin 64} (h : u.findLot code = some i) :
    u.lots[i].state ≠ .free ∧ u.lots[i].code = code := by
  unfold RecordUnit.findLot at h
  have := List.find?_some h
  simpa using this

/-- The entry ADD_LOT fills is FREE and every lower one is not (R38). -/
theorem firstFreeLot_free {u : RecordUnit} {i : Fin 64} (h : u.firstFreeLot = some i) :
    u.lots[i].state = .free := by
  unfold RecordUnit.firstFreeLot at h
  have := List.find?_some h
  simpa using this

end Sys2Proof.Machine
end

