-- ==== Sys2Proof/Laws/Days.lean ====
section
/-! SUPPORT. What day steps and catch-up do to a touched record and to the Record Unit around it:
what they keep, the day they reach, and that they do not depend on the request under way. -/

namespace Sys2Proof.Machine

open Sys2Proof

/-! ## What a day step keeps (R101, R105) -/

/-- What work within a day step leaves alone: of the record everything but the state, the
closed-through day, the countdown, the missed count, the held reading, the snapshot, the crossover,
the LAPSE event, the attention bit and the version; of the Record Unit everything but lots'
incoming-user counts and regions' attention counts. -/
structure DayKept (t t' : Touch) : Prop where
  line : { t'.line with
      state := t.line.state, closedDay := t.line.closedDay, countdown := t.line.countdown,
      missed := t.line.missed, crossover := t.line.crossover, snapshot := t.line.snapshot,
      lapseEvent := t.line.lapseEvent, attention := t.line.attention,
      version := t.line.version } = t.line
  unit : { t'.unit with lots := t.unit.lots, regions := t.unit.regions } = t.unit
  lots : ∀ i : Fin 64,
    { t'.unit.lots[i] with incomingUsers := t.unit.lots[i].incomingUsers } = t.unit.lots[i]
  regions : ∀ i : Fin 64,
    { t'.unit.regions[i] with attentionCount := t.unit.regions[i].attentionCount } =
      t.unit.regions[i]
  attention : t.attention = true → t'.attention = true

theorem DayKept.refl (t : Touch) : DayKept t t := ⟨rfl, rfl, fun _ => rfl, fun _ => rfl, id⟩

theorem lot_incoming_eq {a b : Lot} (h : { b with incomingUsers := a.incomingUsers } = a) :
    b = { a with incomingUsers := b.incomingUsers } := by
  cases a; cases b; simp_all

theorem DayKept.trans {a b c : Touch} (h : DayKept a b) (k : DayKept b c) : DayKept a c := by
  obtain ⟨h1, h2, h3, h4, h5⟩ := h
  obtain ⟨k1, k2, k3, k4, k5⟩ := k
  refine ⟨?_, ?_, fun i => ?_, fun i => ?_, fun e => k5 (h5 e)⟩
  · rw [← k1] at h1
    exact h1
  · rw [← k2] at h2
    exact h2
  · have := h3 i
    rw [← k3 i] at this
    exact this
  · have := h4 i
    rw [← k4 i] at this
    exact this

theorem dropIncomingUser_lots (u : RecordUnit) (i j : Fin 64) :
    { (dropIncomingUser u i).lots[j] with incomingUsers := u.lots[j].incomingUsers } = u.lots[j] := by
  unfold dropIncomingUser
  rw [modifyLot_lots]
  by_cases h : i = j
  · subst h; simp
  · simp [h]

theorem addAttention_regions (u : RecordUnit) (i j : Fin 64) :
    { (addAttention u i).regions[j] with attentionCount := u.regions[j].attentionCount } =
      u.regions[j] := by
  unfold addAttention
  rw [modifyRegion_regions]
  by_cases h : i = j
  · subst h; simp
  · simp [h]

theorem dropAttention_regions (u : RecordUnit) (i j : Fin 64) :
    { (dropAttention u i).regions[j] with attentionCount := u.regions[j].attentionCount } =
      u.regions[j] := by
  unfold dropAttention
  rw [modifyRegion_regions]
  by_cases h : i = j
  · subst h; simp
  · simp [h]

/-- Recomputing the attention bit keeps everything but the bit and its region's count (R81, R133). -/
theorem DayKept.recomputeAttention (t : Touch) : DayKept t t.recomputeAttention := by
  unfold Touch.recomputeAttention
  split
  · exact DayKept.refl t
  · split
    · exact ⟨rfl, rfl, fun _ => rfl, fun j => addAttention_regions t.unit t.line.region j,
        fun e => by simp [e]⟩
    · exact ⟨rfl, rfl, fun _ => rfl, fun j => dropAttention_regions t.unit t.line.region j, id⟩

theorem DayKept.lapse (t : Touch) : DayKept t t.lapse := by
  unfold Touch.lapse
  cases h : t.line.crossover with
  | none =>
    refine DayKept.trans ?_ (DayKept.recomputeAttention _)
    exact ⟨rfl, rfl, fun _ => rfl, fun _ => rfl, id⟩
  | some x =>
    refine DayKept.trans ?_ (DayKept.recomputeAttention _)
    exact ⟨rfl, rfl, fun j => dropIncomingUser_lots t.unit x.incoming j, fun _ => rfl, id⟩

theorem DayKept.stepRun (t : Touch) : DayKept t t.stepRun := by
  unfold Touch.stepRun
  simp only
  split
  · split
    · refine DayKept.trans ?_ (DayKept.lapse _)
      exact ⟨rfl, rfl, fun _ => rfl, fun _ => rfl, id⟩
    · exact ⟨rfl, rfl, fun _ => rfl, fun _ => rfl, id⟩
  · exact ⟨rfl, rfl, fun _ => rfl, fun _ => rfl, id⟩

theorem DayKept.stepHoldAtDue (t : Touch) : DayKept t t.stepHoldAtDue :=
  ⟨rfl, rfl, fun _ => rfl, fun _ => rfl, id⟩

/-- What a day step keeps (R101). -/
theorem DayKept.dayStep (t : Touch) : DayKept t t.dayStep := by
  unfold Touch.dayStep
  simp only
  have h1 : DayKept t (t.mapLine LineRecord.dropDayParts) :=
    ⟨rfl, rfl, fun _ => rfl, fun _ => rfl, id⟩
  have last : ∀ t' : Touch,
      DayKept t' (t'.mapLine fun r => { r with closedDay := r.closedDay + 1 }) :=
    fun _ => ⟨rfl, rfl, fun _ => rfl, fun _ => rfl, id⟩
  split
  · split
    · exact (h1.trans (DayKept.stepRun _)).trans (last _)
    · exact (h1.trans (DayKept.stepHoldAtDue _)).trans (last _)
    · exact h1.trans (last _)
  · exact h1.trans (last _)

theorem DayKept.daySteps (n : Nat) (t : Touch) : DayKept t (Touch.daySteps n t) := by
  induction n generalizing t with
  | zero => exact DayKept.refl t
  | succ n ih => exact (DayKept.dayStep t).trans (ih t.dayStep)

/-- What catch-up keeps (R99). -/
theorem DayKept.catchUp (t : Touch) : DayKept t t.catchUp := DayKept.daySteps _ t

/-- What touching a record keeps. -/
theorem touch_kept (u : RecordUnit) (r : LineRecord) : DayKept ⟨r, u, false⟩ (touch u r) :=
  DayKept.catchUp _

/-! ## The fields kept, one by one -/

theorem DayKept.fields {t t' : Touch} (h : DayKept t t') :
    t'.line.slot = t.line.slot ∧ t'.line.site = t.line.site ∧ t'.line.lineNo = t.line.lineNo ∧
      t'.line.region = t.line.region ∧ t'.line.kind = t.line.kind ∧
      t'.line.profile = t.line.profile ∧ t'.line.lot = t.line.lot ∧
      t'.line.stats = t.line.stats ∧ t'.line.level = t.line.level := by
  have := h.line
  rw [← this]
  simp

theorem DayKept.unit_fields {t t' : Touch} (h : DayKept t t') :
    t'.unit.records = t.unit.records ∧ t'.unit.index = t.unit.index ∧
      t'.unit.ring = t.unit.ring ∧ t'.unit.ringHead = t.unit.ringHead ∧
      t'.unit.ringTail = t.unit.ringTail ∧ t'.unit.profiles = t.unit.profiles ∧
      t'.unit.businessDay = t.unit.businessDay ∧ t'.unit.freeze = t.unit.freeze ∧
      t'.unit.sweep = t.unit.sweep ∧ t'.unit.survey = t.unit.survey ∧
      t'.unit.arbiter = t.unit.arbiter ∧ t'.unit.inProgress = t.unit.inProgress := by
  have := h.unit
  rw [← this]
  simp

/-- A touched record stands in the slot, under the key and kind it had. -/
theorem touch_line_fields (u : RecordUnit) (r : LineRecord) :
    (touch u r).line.slot = r.slot ∧ (touch u r).line.site = r.site ∧
      (touch u r).line.lineNo = r.lineNo ∧ (touch u r).line.region = r.region ∧
      (touch u r).line.kind = r.kind ∧ (touch u r).line.profile = r.profile ∧
      (touch u r).line.lot = r.lot ∧ (touch u r).line.stats = r.stats ∧
      (touch u r).line.level = r.level :=
  (touch_kept u r).fields

/-! ## The day reached (R98, R99) -/

theorem recomputeAttention_closedDay (t : Touch) :
    t.recomputeAttention.line.closedDay = t.line.closedDay := by
  unfold Touch.recomputeAttention
  split
  · rfl
  · split <;> rfl

theorem lapse_closedDay (t : Touch) : t.lapse.line.closedDay = t.line.closedDay := by
  unfold Touch.lapse
  cases t.line.crossover <;> exact recomputeAttention_closedDay _

theorem stepRun_closedDay (t : Touch) : t.stepRun.line.closedDay = t.line.closedDay := by
  unfold Touch.stepRun
  simp only
  split
  · split
    · exact lapse_closedDay _
    · rfl
  · rfl

/-- One day step adds 1 to the closed-through day (R101). -/
theorem dayStep_closedDay (t : Touch) : t.dayStep.line.closedDay = t.line.closedDay + 1 := by
  unfold Touch.dayStep
  simp only
  split
  · split
    · simp only [Touch.mapLine_line]
      rw [stepRun_closedDay]
      rfl
    · rfl
    · rfl
  · rfl

theorem daySteps_closedDay (n : Nat) (t : Touch) :
    (Touch.daySteps n t).line.closedDay = t.line.closedDay + n := by
  induction n generalizing t with
  | zero => rfl
  | succ n ih =>
    simp only [Touch.daySteps, ih, dayStep_closedDay]
    omega

/-- A touched record is closed through the business day, or further if it already was (R99). -/
theorem touch_closedDay (u : RecordUnit) (r : LineRecord) :
    (touch u r).line.closedDay = max r.closedDay u.businessDay := by
  unfold touch Touch.catchUp
  rw [daySteps_closedDay]
  simp only
  omega

/-- A record that is not behind the business day is left as it stands by catch-up (R99). -/
theorem touch_closed {u : RecordUnit} {r : LineRecord} (h : u.businessDay ≤ r.closedDay) :
    touch u r = ⟨r, u, false⟩ := by
  unfold touch Touch.catchUp
  simp only [Nat.sub_eq_zero_of_le h]
  rfl

/-! ## Independence of the request under way -/

/-- The Record Unit with another request under way and another arbiter. -/
def Touch.restart (g : Option Grant) (a : Arbiter) (t : Touch) : Touch :=
  t.mapUnit fun u => { u with inProgress := g, arbiter := a }

theorem restart_recomputeAttention (g : Option Grant) (a : Arbiter) (t : Touch) :
    (t.restart g a).recomputeAttention = t.recomputeAttention.restart g a := by
  unfold Touch.recomputeAttention
  have hl : (t.restart g a).line = t.line := rfl
  simp only [hl]
  by_cases h : t.line.wantsAttention = t.line.attention
  · rw [if_pos h, if_pos h]
  · rw [if_neg h, if_neg h]
    by_cases k : t.line.wantsAttention = true
    · rw [if_pos k, if_pos k]; rfl
    · rw [if_neg k, if_neg k]; rfl

theorem restart_lapse (g : Option Grant) (a : Arbiter) (t : Touch) :
    (t.restart g a).lapse = t.lapse.restart g a := by
  unfold Touch.lapse
  have h : (t.restart g a).line = t.line := rfl
  rw [h]
  cases t.line.crossover with
  | none =>
    simp only
    rw [← restart_recomputeAttention]
    rfl
  | some x =>
    simp only
    rw [← restart_recomputeAttention]
    rfl

theorem restart_mapLine (g : Option Grant) (a : Arbiter) (t : Touch)
    (f : LineRecord → LineRecord) : (t.restart g a).mapLine f = (t.mapLine f).restart g a := rfl

theorem restart_stepRun (g : Option Grant) (a : Arbiter) (t : Touch) :
    (t.restart g a).stepRun = t.stepRun.restart g a := by
  unfold Touch.stepRun
  have hl : (t.restart g a).line = t.line := rfl
  have hp : (t.restart g a).profile = t.profile := rfl
  simp only [hl, hp, restart_mapLine, restart_lapse]
  split
  · split <;> rfl
  · rfl

theorem restart_dayStep (g : Option Grant) (a : Arbiter) (t : Touch) :
    (t.restart g a).dayStep = t.dayStep.restart g a := by
  unfold Touch.dayStep
  have h : (t.restart g a).mapLine LineRecord.dropDayParts =
    (t.mapLine LineRecord.dropDayParts).restart g a := rfl
  simp only [h]
  generalize t.mapLine LineRecord.dropDayParts = t'
  have hl : (t'.restart g a).line = t'.line := rfl
  have hr : (t'.restart g a).region = t'.region := rfl
  simp only [hl, hr]
  split
  · split
    · rw [restart_stepRun]
      rfl
    · rfl
    · rfl
  · rfl

theorem restart_daySteps (g : Option Grant) (a : Arbiter) (n : Nat) (t : Touch) :
    Touch.daySteps n (t.restart g a) = (Touch.daySteps n t).restart g a := by
  induction n generalizing t with
  | zero => rfl
  | succ n ih => simp only [Touch.daySteps, restart_dayStep, ih]

/-- Touching a record while a request is under way is touching it with none, the request and the
arbiter being carried along. -/
theorem touch_start (u : RecordUnit) (g : Grant) (a : Arbiter) (r : LineRecord) :
    touch (u.start g a) r = (touch u r).restart (some g) a := by
  unfold touch Touch.catchUp
  exact restart_daySteps (some g) a _ ⟨r, u, false⟩

end Sys2Proof.Machine
end

