-- ==== Sys2Proof/Laws/Grading.lean ====
section
/-! SUPPORT. What grading computes: which points are graded and by what, the level of a record, and
the ranges a written profile has. -/

namespace Sys2Proof.Machine

open Sys2Proof

/-- One point of a record's statistics after a grading (R71). -/
@[simp] theorem gradeStats_getElem (pr : Profile) (kind : ProcessKind) (aims corrected : Points Int)
    (stats : Points PointStats) (i : Fin 12) :
    (gradeStats pr kind aims corrected stats)[i] =
      if isPoint kind i then
        gradePoint pr.limits[quantityOf i] pr.runLimit aims[i] corrected[i] stats[i]
      else stats[i] := by
  unfold gradeStats mapStats limitsOf
  rw [build12_getElem]

/-- The highest of a list of levels, from one given, is at or above it and every member, and is one of
them. -/
theorem foldl_max_spec (l : List Level) (start : Level) :
    start.code ≤ (l.foldl Level.max start).code ∧
      (∀ x ∈ l, x.code ≤ (l.foldl Level.max start).code) ∧
      (l.foldl Level.max start = start ∨ l.foldl Level.max start ∈ l) := by
  induction l generalizing start with
  | nil => simp
  | cons x xs ih =>
    obtain ⟨h₁, h₂, h₃⟩ := ih (start.max x)
    have hm : start.code ≤ (start.max x).code ∧ x.code ≤ (start.max x).code ∧
        (start.max x = start ∨ start.max x = x) := by
      unfold Level.max
      split
      · exact ⟨by omega, le_refl _, .inr rfl⟩
      · exact ⟨le_refl _, by omega, .inl rfl⟩
    simp only [List.foldl_cons, List.mem_cons]
    refine ⟨hm.1.trans h₁, ?_, ?_⟩
    · rintro y (rfl | hy)
      · exact hm.2.1.trans h₁
      · exact h₂ y hy
    · rcases h₃ with h | h
      · rcases hm.2.2 with g | g
        · exact .inl (h.trans g)
        · exact .inr (.inl (h.trans g))
      · exact .inr (.inr h)

/-- No point's level is above the record's (R80). -/
theorem level_le_statsLevel (stats : Points PointStats) (i : Fin 12) :
    stats[i].flags.level.code ≤ (statsLevel stats).code :=
  (foldl_max_spec _ .ok).2.1 _ (List.mem_map.2 ⟨i, mem_points i, rfl⟩)

/-- Some point has the record's level (R80). -/
theorem exists_level_eq_statsLevel (stats : Points PointStats) :
    ∃ i : Fin 12, stats[i].flags.level = statsLevel stats := by
  rcases (foldl_max_spec (points.map fun i => stats[i].flags.level) .ok).2.2 with h | h
  · refine ⟨0, ?_⟩
    have h₀ := level_le_statsLevel stats 0
    change statsLevel stats = .ok at h
    rw [h] at h₀ ⊢
    cases hl : stats[(0 : Fin 12)].flags.level <;> rw [hl] at h₀ <;> simp_all [Level.code]
  · obtain ⟨i, -, hi⟩ := List.mem_map.1 h
    exact ⟨i, hi⟩

/-- A further byte enters the check code behind those before it (R191). -/
theorem checkCode_append (bytes : List Byte) (b : Byte) :
    checkCode (bytes ++ [b]) = crcByte (checkCode bytes) b := by
  unfold checkCode
  rw [List.foldl_append]
  rfl

/-- The ranges of one quantity's limits in a request, written out (R26). -/
theorem limitsInRange_iff (l : LimitArgs) :
    limitsInRange l = true ↔
      1 ≤ l.w.toNat ∧ l.w.toNat ≤ 2000 ∧ l.w.toNat ≤ l.a.toNat ∧ l.a.toNat ≤ 2000 ∧
        l.k.toNat ≤ 500 ∧ 1 ≤ l.h.toNat ∧ l.h.toNat ≤ 5000 ∧ 1 ≤ l.tolerance.toNat ∧
        l.tolerance.toNat ≤ 500 := by
  simp only [limitsInRange, within, Bool.and_eq_true, decide_eq_true_eq]
  omega

/-- The ranges of a profile in a request, written out (R26). -/
theorem profileInRange_iff (a : WriteProfileArgs) :
    profileInRange a = true ↔
      3 ≤ a.runLimit.toNat ∧ a.runLimit.toNat ≤ 15 ∧ 1 ≤ a.baselineCount.toNat ∧
        a.baselineCount.toNat ≤ 8 ∧ 1 ≤ a.stripInterval.toNat ∧ a.stripInterval.toNat ≤ 7 ∧
        1 ≤ a.lapseLimit.toNat ∧ a.lapseLimit.toNat ≤ 15 ∧ 1 ≤ a.crossoverPairs.toNat ∧
        a.crossoverPairs.toNat ≤ 5 ∧ ∀ q : Fin 4, limitsInRange a.limits[q] = true := by
  have hall : a.limits.toList.all limitsInRange = true ↔
      ∀ q : Fin 4, limitsInRange a.limits[q] = true := by
    rw [List.all_eq_true]
    constructor
    · exact fun h q => h _ (by simp)
    · intro h l hl
      obtain ⟨i, hi, rfl⟩ := List.getElem_of_mem hl
      simpa using h ⟨i, by simpa using hi⟩
  simp only [profileInRange, within, Bool.and_eq_true, decide_eq_true_eq, hall]
  constructor
  · rintro ⟨⟨⟨⟨⟨h₁, h₂⟩, h₃⟩, h₄⟩, h₅⟩, h₆⟩
    exact ⟨h₁.1, h₁.2, h₂.1, h₂.2, h₃.1, h₃.2, h₄.1, h₄.2, h₅.1, h₅.2, h₆⟩
  · rintro ⟨h₁, h₂, h₃, h₄, h₅, h₆, h₇, h₈, h₉, h₁₀, h₁₁⟩
    exact ⟨⟨⟨⟨⟨⟨h₁, h₂⟩, h₃, h₄⟩, h₅, h₆⟩, h₇, h₈⟩, h₉, h₁₀⟩, h₁₁⟩

end Sys2Proof.Machine
end

