-- ==== Sys2Proof/Laws/Layouts.lean ====
section
/-! SUPPORT. Where fields stand: in a response, in a request, in a reading, in a verdict, in the
record image, in a window read. -/

namespace Sys2Proof.Machine

open Sys2Proof

/-- The five header fields of a response (R193). -/
def headerFields (code : Byte) (tag : Half) (r : Reply) : List Field :=
  [u8 code.toNat, u8 r.status.code, u16 tag.toNat, u16 r.slot, u16 r.version.toNat]

/-- A field of a response stands in the block where its widths place it (R156, R193). -/
theorem responseOf_shows {code : Byte} {tag : Half} {r : Reply} {k : Nat} {f : Field}
    (hf : (headerFields code tag r ++ r.content)[k]? = some f)
    (hk : placeAt 0 ((headerFields code tag r ++ r.content).map Field.width) k + f.width ≤ 256) :
    Shows (responseOf code tag r).toList
      (placeAt 0 ((headerFields code tag r ++ r.content).map Field.width) k) f.width f.value := by
  unfold Shows responseOf
  rw [leAt_blockOf _ hk]
  exact leAt_placeFields (offset := 0) hf

/-- Fields that follow do not move a field already placed. -/
theorem placeAt_append (offset : Nat) (ws more : List Nat) (k : Nat) (h : k < ws.length) :
    placeAt offset (ws ++ more) k = placeAt offset ws k := by
  induction ws generalizing offset k with
  | nil => simp at h
  | cons w rest ih =>
    cases k with
    | zero => rfl
    | succ k => exact ih _ _ (by simpa using h)

/-! ## The request (R193) -/

theorem u8At_toNat (l : List Byte) (o : Nat) : (u8At l o).toNat = leAt l o 1 := by
  have := leAt_lt l o 1
  simp [u8At]
  omega

theorem u16At_toNat (l : List Byte) (o : Nat) : (u16At l o).toNat = leAt l o 2 := by
  have := leAt_lt l o 2
  simp [u16At]
  omega

theorem u32At_toNat (l : List Byte) (o : Nat) : (u32At l o).toNat = leAt l o 4 := by
  have := leAt_lt l o 4
  simp [u32At]
  omega

/-- A field shows the number that stands there. -/
theorem shows_leAt (l : List Byte) (o w : Nat) : Shows l o w (leAt l o w) :=
  (Nat.mod_eq_of_lt (leAt_lt l o w)).symm

/-- The header of a request is read where R193 puts it. -/
theorem parseHeader_shows (l : List Byte) : ShowsHeader l (parseHeader l) where
  flags := by
    show Shows l 1 1 (u8At l 1).toNat
    rw [u8At_toNat]
    exact shows_leAt _ _ _
  present := by
    rw [← u8At_toNat]; rfl
  tag := by
    show Shows l 2 2 (u16At l 2).toNat
    rw [u16At_toNat]
    exact shows_leAt _ _ _
  version := by
    show Shows l 4 2 (u16At l 4).toNat
    rw [u16At_toNat]
    exact shows_leAt _ _ _

theorem key_shows (l : List Byte) (k : Byte) (h : u8At l 0 = k) :
    ShowsKey l k.toNat (u32At l 8) (u8At l 12) := by
  subst h
  refine ⟨?_, ?_, ?_⟩ <;> simp only [u8At_toNat, u32At_toNat] <;> exact shows_leAt _ _ _

theorem halves_shows (l : List Byte) : ShowsHalves l (halvesAt l 14) := by
  intro i
  unfold halvesAt
  rw [build12_getElem, u16At_toNat]
  exact shows_leAt _ _ _

theorem raw_shows (l : List Byte) (hl : l.length = 64) (i : Fin 48) :
    Shows l (8 + i.val) 1 (rawReadingOf (l.drop 8))[i].toNat := by
  unfold Shows rawReadingOf leAt
  have : (blockOf 48 ((l.drop 8).take 48))[i] = l[8 + i.val]'(by omega) := by
    show (blockOf 48 ((l.drop 8).take 48))[i.val] = _
    unfold blockOf
    rw [storeBytes_getElem _ _ _ _ i.isLt, dif_pos (by simp; omega)]
    simp
  rw [this, List.drop_eq_getElem_cons (by omega)]
  simp only [List.take_succ_cons, List.take_zero, leVal]
  have := (l[8 + i.val]'(by omega)).isLt
  omega

theorem showsRequest_ite {l : List Byte} {c : Prop} [Decidable c] {a b : PortOp}
    (ha : c → ShowsRequest l a) (hb : ¬c → ShowsRequest l b) :
    ShowsRequest l (if c then a else b) := by
  split
  · exact ha ‹_›
  · exact hb ‹_›

/-- The request a block holds is read where R193 puts it. -/
theorem parseOp_shows (l : List Byte) (hl : l.length = 64) : ShowsRequest l (parseOp l) := by
  have b (o : Nat) : Shows l o 1 (u8At l o).toNat := u8At_toNat l o ▸ shows_leAt l o 1
  have h (o : Nat) : Shows l o 2 (u16At l o).toNat := u16At_toNat l o ▸ shows_leAt l o 2
  have w (o : Nat) : Shows l o 4 (u32At l o).toNat := u32At_toNat l o ▸ shows_leAt l o 4
  have c (k : Byte) (hk : u8At l 0 = k) : Shows l 0 1 k.toNat := hk ▸ b 0
  unfold parseOp
  dsimp only
  repeat' refine showsRequest_ite (fun hc => ?_) (fun hc => ?_)
  all_goals try exact c _ hc
  all_goals try exact ⟨c _ hc, b _⟩
  all_goals try exact ⟨c _ hc, h _⟩
  all_goals try exact ⟨c _ hc, w _⟩
  all_goals try exact ⟨c _ hc, b _, b _⟩
  all_goals try exact ⟨c _ hc, w _, b _⟩
  all_goals try exact ⟨key_shows l _ hc, b _⟩
  all_goals try exact ⟨key_shows l _ hc, w _⟩
  all_goals try exact ⟨key_shows l _ hc, halves_shows l⟩
  all_goals try exact ⟨c _ hc, w _, b _, halves_shows l⟩
  all_goals try exact ⟨c _ hc, fun i => raw_shows l hl i⟩
  all_goals try exact ⟨key_shows l _ hc, b _, b _, b _, w _⟩
  · refine ⟨c _ hc, b _, b _, b _, b _, b _, b _, b _, ?_⟩
    intro q; fin_cases q <;> exact ⟨h _, h _, h _, h _, h _⟩
  · exact ⟨c _ hc, h _, b _, b _, b _, b _, b _, b _⟩
  · refine ⟨b 0, ?_⟩
    have known : ∀ x : Byte, ((0x01 ≤ x.toNat ∧ x.toNat ≤ 0x0D) ∨
        (0x20 ≤ x.toNat ∧ x.toNat ≤ 0x28) ∨
        (0x40 ≤ x.toNat ∧ x.toNat ≤ 0x44) ∨ (0x60 ≤ x.toNat ∧ x.toNat ≤ 0x61)) → x ∈ knownCodes := by
      decide +kernel
    have hn : u8At l 0 ∉ knownCodes := by
      simp only [knownCodes, List.mem_cons, List.not_mem_nil, or_false, not_or]
      and_intros <;> assumption
    exact ⟨fun k => hn (known _ (.inl k)), fun k => hn (known _ (.inr (.inl k))),
      fun k => hn (known _ (.inr (.inr (.inl k)))), fun k => hn (known _ (.inr (.inr (.inr k))))⟩
/-! ## The reading record (R191) -/

/-- The fields of a reading are the numbers that stand in its 48 bytes. -/
theorem parseReading_reads (raw : RawReading) : ReadsRecord raw (parseReading raw) := by
  constructor
  · exact ⟨u32At_toNat _ 0, u32At_toNat _ 4, u8At_toNat _ 8⟩
  · exact u8At_toNat _ 9
  · rw [← u8At_toNat]
    rfl
  · exact u16At_toNat _ 12
  · exact u32At_toNat _ 16
  · intro i
    show (halvesAt raw.toList 20)[i].toNat = _
    unfold halvesAt
    rw [build12_getElem]
    exact u16At_toNat _ _

/-! ## The verdict (R192) -/

/-- The widths of a verdict's fields. -/
def verdictWidths : List Nat :=
  [4, 4, 1, 1, 1, 1, 2, 2, 1, 1, 1, 1, 1, 1, 2, 1, 1, 1, 1, 1, 1, 1, 1]

/-- A field of a verdict stands in its bytes where the widths place it. -/
theorem Verdict.shows (v : Verdict) (k offset width value : Nat)
    (hf : v.fields[k]? = some ⟨width, value⟩) (ho : placeAt 0 verdictWidths k = offset) :
    Shows v.bytes offset width value := by
  have h := leAt_placeFields (offset := 0) hf
  rw [show v.fields.map Field.width = verdictWidths from rfl, ho] at h
  exact h

/-- Every verdict stands in its bytes as R192 lays it out. -/
theorem Verdict.showsVerdict (v : Verdict) : ShowsVerdict v.bytes v where
  length := by
    show (placeFields _ _).length = _
    rw [placeFields_length, show v.fields.map Field.width = verdictWidths from rfl]
    rfl
  echoes := ⟨v.shows 0 _ _ _ rfl rfl, v.shows 1 _ _ _ rfl rfl, v.shows 2 _ _ _ rfl rfl⟩
  codes := ⟨v.shows 3 _ _ _ rfl rfl, v.shows 4 _ _ _ rfl rfl, v.shows 5 _ _ _ rfl rfl⟩
  record := ⟨v.shows 6 _ _ _ rfl rfl, v.shows 7 _ _ _ rfl rfl, v.shows 8 _ _ _ rfl rfl,
    v.shows 9 _ _ _ rfl rfl⟩
  indications := v.shows 10 _ _ _ rfl rfl
  newKinds := v.shows 11 _ _ _ rfl rfl
  worst := by
    refine ⟨v.shows 12 _ _ _ ?_ rfl, v.shows 13 _ _ _ ?_ rfl, v.shows 14 _ _ _ ?_ rfl⟩ <;>
      cases h : v.worst <;> simp [Verdict.fields, h] <;> rfl
  progress := ⟨v.shows 15 _ _ _ rfl rfl, v.shows 16 _ _ _ rfl rfl, v.shows 17 _ _ _ rfl rfl⟩
  reserved := by
    intro o h₁ h₂
    interval_cases o
    · exact v.shows 18 _ _ _ rfl rfl
    · exact v.shows 19 _ _ _ rfl rfl
    · exact v.shows 20 _ _ _ rfl rfl
    · exact v.shows 21 _ _ _ rfl rfl
    · exact v.shows 22 _ _ _ rfl rfl

/-! ## The record image (R194) -/

/-- The widths of the header and of the image before the part area: 94 fields. -/
def imageWidths : List Nat :=
  [1, 1, 2, 2, 2, 4, 1, 1, 1, 1, 2, 2, 2, 2, 1, 1, 1, 1, 1, 1, 1, 4] ++ List.replicate 12 2 ++
    (List.replicate 12 [2, 2, 2, 1, 1]).flatten

/-- The fields of a READ_LINE response: header, image, and its part area, in that order. -/
theorem image_fields_at (code : Byte) (tag : Half) (r : Reply) (lots : Vector Lot 64)
    (x : LineRecord) (k : Nat) :
    (headerFields code tag r ++ imageFields lots x)[94 + k]? = (partFields lots x)[k]? := by
  unfold imageFields
  rw [← List.append_assoc, List.getElem?_append_right (Nat.le_add_right 94 k)]
  exact congrArg _ (Nat.add_sub_cancel_left 94 k)

/-- The widths of those fields. -/
theorem image_widths (code : Byte) (tag : Half) (r : Reply) (lots : Vector Lot 64)
    (x : LineRecord) :
    (headerFields code tag r ++ imageFields lots x).map Field.width =
      imageWidths ++ (partFields lots x).map Field.width := by
  unfold imageFields
  rw [← List.append_assoc, List.map_append]
  rfl

/-- A field of the image before its part area stands where R194 places it. -/
theorem image_shows {code : Byte} {tag : Half} {r : Reply} {lots : Vector Lot 64} {x : LineRecord}
    (hr : r.content = imageFields lots x) (k offset width value : Nat)
    (hf : (headerFields code tag r ++ imageFields lots x)[k]? = some ⟨width, value⟩)
    (hk : k < 94) (ho : placeAt 0 imageWidths k = offset) (he : offset + width ≤ 256) :
    Shows (responseOf code tag r).toList offset width value := by
  have hw : placeAt 0 ((headerFields code tag r ++ r.content).map Field.width) k = offset := by
    rw [hr, image_widths, placeAt_append _ _ _ _ (by simpa [imageWidths] using hk), ho]
  have h := responseOf_shows (code := code) (tag := tag) (r := r) (k := k) (hr ▸ hf)
    (by rw [hw]; exact he)
  rw [hw] at h
  exact h

/-- A field of the part area stands where R194 places it. -/
theorem part_shows {code : Byte} {tag : Half} {r : Reply} {lots : Vector Lot 64} {x : LineRecord}
    (hr : r.content = imageFields lots x) (widths : List Nat)
    (hw : (partFields lots x).map Field.width = widths) (k offset width value : Nat)
    (hf : (partFields lots x)[k]? = some ⟨width, value⟩)
    (ho : placeAt 0 (imageWidths ++ widths) (94 + k) = offset) (he : offset + width ≤ 256) :
    Shows (responseOf code tag r).toList offset width value := by
  have hp : placeAt 0 ((headerFields code tag r ++ r.content).map Field.width) (94 + k) =
      offset := by
    rw [hr, image_widths, hw, ho]
  have h := responseOf_shows (code := code) (tag := tag) (r := r) (k := 94 + k)
    (f := ⟨width, value⟩) (by rw [hr, image_fields_at]; exact hf) (by rw [hp]; exact he)
  rw [hp] at h
  exact h

set_option maxRecDepth 10000 in
/-- The part area stands in the block as R194 lays it out. -/
theorem image_showsPart {code : Byte} {tag : Half} {r : Reply} {lots : Vector Lot 64}
    {x : LineRecord} (hr : r.content = imageFields lots x) :
    ShowsPart (responseOf code tag r).toList lots x := by
  have coded : Shows (responseOf code tag r).toList 30 1 (partCode x) :=
    image_shows hr 20 30 1 _ rfl (by decide) (by decide) (by decide)
  unfold ShowsPart
  unfold partCode at coded
  have field : ∀ fields, partFields lots x = fields → ∀ widths, fields.map Field.width = widths →
      ∀ k offset width value, fields[k]? = some ⟨width, value⟩ →
      placeAt 0 (imageWidths ++ widths) (94 + k) = offset → offset + width ≤ 256 →
        Shows (responseOf code tag r).toList offset width value :=
    fun _ hp _ hw k offset width value hf ho he =>
      part_shows hr _ ((congrArg _ hp).trans hw) k offset width value (hp ▸ hf) ho he
  unfold partFields at field
  rcases hb : x.baseline with _ | b
  · rcases hx : x.crossover with _ | c
    · rcases hn : x.snapshot with _ | n
      · simp only [hb, hx, hn] at coded ⊢
        refine ⟨coded, fun o h₁ h₂ => ?_⟩
        have none_left : (placeFields 0 (headerFields code tag r ++ r.content)).length = 156 := by
          have hp : partFields lots x = [] := by simp [partFields, hb, hx, hn]
          have hw := image_widths code tag r lots x
          rw [hp, List.map_nil, List.append_nil] at hw
          have hl := congrArg List.length hw
          rw [List.length_map] at hl
          rw [placeFields_length, hr, hw, hl]
          rfl
        unfold Shows responseOf
        rw [leAt_blockOf _ (by omega)]
        unfold leAt
        show leVal (((placeFields 0 (headerFields code tag r ++ r.content)).drop o).take 1) = _
        rw [List.drop_eq_nil_of_le (by omega)]
        rfl
      · simp only [hb, hx, hn] at coded field ⊢
        replace field := field _ rfl ([2, 1, 1] ++ (List.replicate 12 [2, 2, 2, 1, 1]).flatten) rfl
        refine ⟨coded, field 0 156 2 _ rfl (by decide) (by decide),
          field 1 158 1 _ rfl (by decide) (by decide), field 2 159 1 _ rfl (by decide) (by decide),
          fun i => ?_⟩
        refine ⟨field (3 + 5 * i.val) _ 2 _ ?_ ?_ (by omega),
          field (4 + 5 * i.val) _ 2 _ ?_ ?_ (by omega),
          field (5 + 5 * i.val) _ 2 _ ?_ ?_ (by omega),
          field (6 + 5 * i.val) _ 1 _ ?_ ?_ (by omega),
          field (7 + 5 * i.val) _ 1 _ ?_ ?_ (by omega)⟩
        all_goals first | (revert i; decide) | (fin_cases i <;> rfl)
    · simp only [hb, hx] at coded field ⊢
      replace field := field _ rfl
        ([1, 1, 1, 1, 4, 2] ++ List.replicate 12 4 ++ List.replicate 12 2) rfl
      refine ⟨coded, field 0 156 1 _ rfl (by decide) (by decide),
        field 1 157 1 _ rfl (by decide) (by decide), field 2 158 1 _ rfl (by decide) (by decide),
        field 3 159 1 _ ?_ (by decide) (by decide), field 4 160 4 _ rfl (by decide) (by decide),
        field 5 164 2 _ ?_ (by decide) (by decide),
        fun i => ⟨field (6 + i.val) _ 4 _ ?_ ?_ (by omega),
          field (18 + i.val) _ 2 _ ?_ ?_ (by omega)⟩⟩
      · rcases c.held with _ | ⟨_ | _, _, _⟩ <;> rfl
      · rcases c.held with _ | _ <;> rfl
      · fin_cases i <;> rfl
      · revert i; decide
      · rcases c.held with _ | _ <;> fin_cases i <;> rfl
      · revert i; decide
  · simp only [hb] at coded field ⊢
    replace field := field _ rfl ([1] ++ List.replicate 12 4) rfl
    refine ⟨coded, field 0 156 1 _ rfl (by decide) (by decide),
      fun i => field (1 + i.val) _ 4 _ ?_ ?_ (by omega)⟩
    · fin_cases i <;> rfl
    · revert i; decide

set_option maxRecDepth 10000 in
/-- The whole record image stands in the response block as R194 lays it out. -/
theorem image_showsImage {code : Byte} {tag : Half} {r : Reply} {lots : Vector Lot 64}
    {x : LineRecord} (hr : r.content = imageFields lots x) :
    ShowsImage (responseOf code tag r).toList lots x := by
  have field : ∀ k offset width value,
      (headerFields code tag r ++ imageFields lots x)[k]? = some ⟨width, value⟩ → k < 94 →
      placeAt 0 imageWidths k = offset → offset + width ≤ 256 →
        Shows (responseOf code tag r).toList offset width value := image_shows hr
  have fixed : ∀ k offset width value, k < 22 → placeAt 0 imageWidths k = offset →
      offset + width ≤ 256 →
      (headerFields code tag r ++ imageFields lots x)[k]? = some ⟨width, value⟩ →
        Shows (responseOf code tag r).toList offset width value :=
    fun k _ _ _ hk ho he hf => field k _ _ _ hf (by omega) ho he
  constructor
  · exact fixed 5 8 4 _ (by decide) (by decide) (by decide) rfl
  · exact ⟨fixed 6 12 1 _ (by decide) (by decide) (by decide) rfl,
      fixed 7 13 1 _ (by decide) (by decide) (by decide) rfl,
      fixed 8 14 1 _ (by decide) (by decide) (by decide) rfl,
      fixed 9 15 1 _ (by decide) (by decide) (by decide) rfl⟩
  · exact ⟨fixed 10 16 2 _ (by decide) (by decide) (by decide) rfl,
      fixed 11 18 2 _ (by decide) (by decide) (by decide) rfl,
      fixed 12 20 2 _ (by decide) (by decide) (by decide) rfl,
      fixed 13 22 2 _ (by decide) (by decide) (by decide) rfl,
      fixed 14 24 1 _ (by decide) (by decide) (by decide) rfl,
      fixed 15 25 1 _ (by decide) (by decide) (by decide) rfl⟩
  · exact ⟨fixed 16 26 1 _ (by decide) (by decide) (by decide) rfl,
      fixed 17 27 1 _ (by decide) (by decide) (by decide) rfl⟩
  · exact fixed 18 28 1 _ (by decide) (by decide) (by decide) rfl
  · refine ⟨fixed 19 29 1 _ (by decide) (by decide) (by decide) rfl,
      fixed 21 32 4 _ (by decide) (by decide) (by decide) ?_⟩
    cases h : x.lot <;> simp [imageFields, h, lotCodeOf] <;> rfl
  · refine fun i => field (22 + i.val) _ 2 _ ?_ (by omega) ?_ (by omega)
    · cases h : x.aims <;> simp only [imageFields, h] <;> fin_cases i <;> rfl
    · revert i; decide
  · intro i
    refine ⟨field (34 + 5 * i.val) _ 2 _ ?_ (by omega) ?_ (by omega),
      field (35 + 5 * i.val) _ 2 _ ?_ (by omega) ?_ (by omega),
      field (36 + 5 * i.val) _ 2 _ ?_ (by omega) ?_ (by omega),
      field (37 + 5 * i.val) _ 1 _ ?_ (by omega) ?_ (by omega),
      field (38 + 5 * i.val) _ 1 _ ?_ (by omega) ?_ (by omega)⟩
    all_goals first | (revert i; decide) | (fin_cases i <;> rfl)
  · exact image_showsPart hr
/-! ## Window reads (R180) -/

/-- A read whose places hold the bytes of a value shows that value, little-endian. -/
theorem windowRead_shows {s : State} (hc : s.inColdReset = false) (offset : Nat) :
    ∀ width value, (∀ k < width, s.windowByte (offset + k) = BitVec.ofNat 8 (value / 256 ^ k)) →
      s.windowRead offset width = some (bytesLE width value) := by
  intro width value h
  have bytes : ∀ (n v : Nat) (f : Nat → Byte), (∀ k < n, f k = BitVec.ofNat 8 (v / 256 ^ k)) →
      (List.range n).map f = bytesLE n v := by
    intro n
    induction n with
    | zero => intros; rfl
    | succ n ih =>
      intro v f hf
      rw [List.range_succ_eq_map, List.map_cons, List.map_map, bytesLE]
      congr 1
      · simpa using hf 0 (by omega)
      · refine ih _ _ fun k hk => ?_
        have := hf (k + 1) (by omega)
        rw [Nat.pow_succ', ← Nat.div_div_eq_div_mul] at this
        exact this
  unfold State.windowRead
  rw [hc]
  exact congrArg some (bytes _ _ _ h)

end Sys2Proof.Machine
end

