-- ==== Sys2Proof/Laws/Port.lean ====
section
/-! SUPPORT. What an event, a request taken, a grant of the Command Port's request and the completion
of a command request do, and the three events of a request served one after another. -/

namespace Sys2Proof.Machine

open Sys2Proof

/-! ## Events (log 9) -/

theorem event_live {s : State} {f : State → State} (h : s.inColdReset = false) :
    event s f = .next (settle s (f s)) := by
  unfold event
  rw [if_neg (by simp [h])]

theorem event_held {s : State} {f : State → State} (h : s.inColdReset = true) :
    event s f = .next s := by
  unfold event
  rw [if_pos h]

/-- What goes out at the end of an event (R184, R185). -/
theorem settle_bus_outbound (before after : State) :
    (settle before after).bus.outbound =
      if !before.intOutput && after.intOutput && after.bus.msiEnabled && after.bus.busMaster then
        after.bus.outbound ++ [.message after.bus.msiAddress after.bus.msiData]
      else after.bus.outbound := by
  unfold settle
  split <;> rfl

/-- The interrupt output follows from the statuses and the enables alone (R184). -/
theorem intOutput_congr {s t : State} (hs : s.bus.status = t.bus.status)
    (he : s.bus.enable = t.bus.enable) : s.intOutput = t.intOutput := by
  unfold State.intOutput BusLink.output
  rw [hs, he]

@[simp] theorem settle_intOutput (before after : State) :
    (settle before after).intOutput = after.intOutput :=
  intOutput_congr (by simp) (by simp)

/-- An event that changes no source and no enable sends no message. -/
theorem settle_quiet {before after : State} (h : before.intOutput = after.intOutput) :
    settle before after = after := by
  unfold settle
  rw [if_neg]
  rw [h]
  cases after.intOutput <;> simp

/-! ## Rows and requests -/

theorem exec_rowOf (h : Header) (op : UnitOp) (s : State) :
    exec (rowOf h op) s = issue h (.unit op) s := by
  cases op <;> rfl

/-- While cold reset is held every command but COLD_RESET and COLD_RESET_END changes nothing (R182,
log 8). -/
theorem exec_held {c : Instr} {s : State} (hc : s.inColdReset = true) (h : c ≠ .coldReset)
    (k : c ≠ .coldResetEnd) : exec c s = .next s := by
  cases c
  case coldReset => exact absurd rfl h
  case coldResetEnd => exact absurd rfl k
  all_goals
    simp only [exec, execCreateLine, execReadLine, execRetireLine, execMoveLine,
      execSetLineProfile, execSetAims, execSetLineLot, execStartCrossover,
      execCancelCrossover, execAcknowledge, execClearDrift, execReinstate,
      execSubmitReading, execWriteProfile, execReadProfile, execFreezeProfiles, execAddLot,
      execReadLot, execWithdrawLot, execRemoveLot, execSetRegionHold, execReadRegion,
      execCloseDay, execRegionPoll, execScanLines, execStartSurvey, execStopSurvey,
      execOpenConfig, execCloseConfig, execUnknownCommand, execOverrunClear, execArm,
      execAbort, execPause, execResume, execArmRefusedClear, execNextFieldWrite,
      execInterruptStatusClear, execInterruptEnableWrite, execPortReset, execRegisterWrite,
      execInitialisationComplete, execReadCompletion, execFetchError, execFetchTimeout,
      execRecordUnitGrant, execCommandComplete, execBatchReadingComplete, execSweepStep,
      execSurveyStep, issue, event_held hc]

/-! ## Taking a request (R150) -/

/-- A request of the Record Unit that the port does not answer itself waits for its grant, and a gate
in KEY1_SEEN is CLOSED (R150 steps 1, 5, 8). -/
theorem takeRequest_presented {s : State} {h : Header} {op : UnitOp} (hr : s.readiness = .ready)
    (hp : portRefuses (gateAfterOther s.gate) op = none) :
    takeRequest h (.unit op) s =
      { s with
        gate := gateAfterOther s.gate
        port := { s.port with phase := .waiting ⟨h, op⟩, done := false } } := by
  unfold takeRequest
  rw [if_neg (by rw [hr]; simp)]
  simp only [hp]

/-- A GO while BUSY sets OVERRUN and nothing else (R151). -/
theorem offerRequest_busy {s : State} {h : Header} {op : PortOp} (hb : s.port.phase ≠ .idle) :
    offerRequest h op s = { s with port := { s.port with overrun := true } } := by
  unfold offerRequest
  rw [if_neg hb]

theorem offerRequest_idle {s : State} {h : Header} {op : PortOp} (hb : s.port.phase = .idle) :
    offerRequest h op s = takeRequest h op s := by
  unfold offerRequest
  rw [if_pos hb]

/-! ## Grant and completion (R15, R152) -/

/-- The choice of R15 falls on the Command Port. -/
theorem chooseClient_port {a : Arbiter} {engine sweep survey : Bool}
    (he : engine = false ∨ a.lastForeground = .batchEngine)
    (hs : sweep = true → a.sweepCount < 8) (hv : survey = true → a.surveyCount < 8) :
    chooseClient a true engine sweep survey = some .commandPort := by
  have h1 : (sweep && decide (8 ≤ a.sweepCount)) = false := by
    cases sweep
    · rfl
    · have := hs rfl
      simp only [Bool.true_and, decide_eq_false_iff_not]; omega
  have h2 : (survey && decide (8 ≤ a.surveyCount)) = false := by
    cases survey
    · rfl
    · have := hv rfl
      simp only [Bool.true_and, decide_eq_false_iff_not]; omega
  unfold chooseClient
  rw [h1, h2]
  rcases he with he | he
  · subst he; simp [pickBackground, pickForeground]
  · cases engine <;> simp [pickBackground, pickForeground, he]

/-- The grant of a command request (R15). -/
theorem grant_command {s : State} {req : UnitRequest} (hr : s.readiness = .ready)
    (hn : s.unit.inProgress = none) (hp : s.port.phase = .waiting req)
    (he : s.waitingReading = none ∨ s.unit.arbiter.lastForeground = .batchEngine)
    (hs : s.unit.sweepWaits = true → s.unit.arbiter.sweepCount < 8)
    (hv : s.unit.surveyWaits = true → s.unit.arbiter.surveyCount < 8) :
    grant s =
      { s with
        unit := s.unit.start (.command req false) s.afterGrant
        port := { s.port with phase := .granted } } := by
  have hw : s.waitingRequest = some req := by unfold State.waitingRequest; rw [hp]
  have hc : s.nextClient = some .commandPort := by
    unfold State.nextClient
    rw [hw]
    refine chooseClient_port ?_ hs hv
    rcases he with he | he
    · exact Or.inl (by rw [he]; rfl)
    · exact Or.inr he
  unfold grant
  rw [if_neg (by simp [hr, hn]), hc, hw]
  rfl

/-- The completion of a command request whose response is wanted (R152). -/
theorem completeCommand_answered {s : State} {req : UnitRequest}
    (h : s.unit.inProgress = some (.command req false)) :
    completeCommand s =
      respond (unitOpCode req.op) req.header.tag (carryOut s.unit req).reply
        (({ s with unit := { (carryOut s.unit req).unit with inProgress := none } }).latchAttention
          (carryOut s.unit req).attention) := by
  unfold completeCommand
  rw [h]
  rfl

/-- The completion of a command request whose response a port reset has discarded (R155). -/
theorem completeCommand_discarded {s : State} {req : UnitRequest}
    (h : s.unit.inProgress = some (.command req true)) :
    completeCommand s =
      ({ s with unit := { (carryOut s.unit req).unit with inProgress := none } }).latchAttention
        (carryOut s.unit req).attention := by
  unfold completeCommand
  rw [h]
  rfl

/-! ## The three events of a request that is served at once -/

/-- A request of the Record Unit, taken, granted next and carried out: what the part holds after the
three events, with the request carried out on the Record Unit that its grant started. -/
theorem served_of_portFirst {s : State} {h : Header} {op : UnitOp} (hf : s.portFirst)
    (hp : portRefuses (gateAfterOther s.gate) op = none) :
    let c := carryOut (s.unit.start (.command ⟨h, op⟩ false) s.afterGrant) ⟨h, op⟩
    ∃ t, CarriesOut (rowOf h op) s t ∧
      Served s t h op { c.unit with inProgress := none } c.attention c.reply := by
  intro c
  obtain ⟨⟨hc, hr⟩, hi, hn, he, hs, hv⟩ := hf
  let s₁ : State :=
    { placeRequest h (.unit op) s with
      gate := gateAfterOther s.gate
      port := { (placeRequest h (.unit op) s).port with phase := .waiting ⟨h, op⟩, done := false } }
  let s₂ : State :=
    { s₁ with
      unit := s₁.unit.start (.command ⟨h, op⟩ false) s₁.afterGrant
      port := { s₁.port with phase := .granted } }
  have e1 : exec (rowOf h op) s = .next s₁ := by
    rw [exec_rowOf]
    unfold issue
    rw [event_live hc, offerRequest_idle (by simpa using hi),
      takeRequest_presented (by simpa using hr) (by simpa using hp)]
    rw [settle_quiet (by rfl)]
    rfl
  have e2 : exec .recordUnitGrant s₁ = .next s₂ := by
    show event _ grant = .next _
    have hg : grant s₁ = s₂ := grant_command (s := s₁) hr hn rfl he hs hv
    rw [event_live (s := s₁) hc, hg, settle_quiet (by rfl)]
  have e3 : exec .commandComplete s₂ = .next (settle s₂ (completeCommand s₂)) := by
    show event _ completeCommand = .next _
    rw [event_live (s := s₂) hc]
  rw [completeCommand_answered (req := ⟨h, op⟩) (by rfl)] at e3
  refine ⟨_, ⟨s₁, s₂, e1, e2, e3⟩, ?_⟩
  have hst : ∀ (before after : State), (before.intOutput = s.intOutput) →
      before.bus.outbound = s.bus.outbound → after.bus.outbound = s.bus.outbound →
      after.bus.msiEnabled = s.bus.msiEnabled → after.bus.busMaster = s.bus.busMaster →
      after.bus.msiAddress = s.bus.msiAddress → after.bus.msiData = s.bus.msiData →
      Announced s (settle before after) := by
    intro before after h1 _ h2 h3 h4 h5 h6
    unfold Announced
    rw [settle_bus_outbound, settle_intOutput, h1, h2, h3, h4, h5, h6]
  refine ⟨?_, ?_, ?_, ?_, ?_⟩
  · simp only [settle_unit, respond_unit, State.latchAttention_unit]
    rfl
  · simp only [settle_port, respond_port, State.latchAttention_port]
    rfl
  · simp only [settle_bus_status, respond_bus_status, State.latchAttention_bus_status]
    show (if c.attention then s.bus.status ||| Source.attention.mask else s.bus.status) ||| _ = _
    cases c.attention <;> simp
  · apply hst
    · rfl
    · rfl
    all_goals simp only [respond_bus_outbound, State.latchAttention_bus_outbound,
      respond_bus_msiEnabled, State.latchAttention_bus_msiEnabled, respond_bus_busMaster,
      State.latchAttention_bus_busMaster, respond_bus_msiAddress, State.latchAttention_bus_msiAddress,
      respond_bus_msiData, State.latchAttention_bus_msiData]
    all_goals rfl
  · refine ⟨?_, ?_, ?_, ?_, ?_, ?_, ?_, ?_, ?_, ?_, ?_, ?_, ?_, ?_⟩ <;> simp <;> rfl

end Sys2Proof.Machine
end

