-- ==== Sys2Proof/Laws/Responses.lean ====
section
/-! SUPPORT. Every response stands in the block as R193 lays it out, and what the Record Unit answers
fits the block. -/

namespace Sys2Proof.Machine

open Sys2Proof

/-! ## Fields placed in a block -/

/-- The next multiple of a width is where a field of that width is placed. -/
theorem nextPlace_eq (offset width : Nat) (h : 0 < width) :
    nextPlace offset width = placeOf offset width := by
  unfold nextPlace placeOf
  have hd := Nat.div_add_mod offset width
  have hm := Nat.mod_lt offset h
  rw [Nat.mul_comm] at hd
  generalize offset / width = q at *
  generalize offset % width = r at *
  subst hd
  rcases Nat.eq_zero_or_pos r with rfl | hr
  · simp only [Nat.add_zero, Nat.sub_zero, Nat.mod_self]
    rw [show q * width + width - 1 = (width - 1) + q * width by omega,
      Nat.add_mul_div_right _ _ h, Nat.div_eq_of_lt (by omega)]
    simp
  · rw [Nat.mod_eq_of_lt (by omega : width - r < width),
      show q * width + r + width - 1 = (r - 1) + (q + 1) * width by rw [Nat.add_mul]; omega,
      Nat.add_mul_div_right _ _ h, Nat.div_eq_of_lt (by omega), Nat.zero_add, Nat.add_mul]
    omega

theorem placesEnd_ge (offset : Nat) (fs : List Field) (h : ∀ f ∈ fs, 0 < f.width) :
    offset ≤ placesEnd offset fs := by
  induction fs generalizing offset with
  | nil => exact le_refl _
  | cons f fs ih =>
    have := ih (nextPlace offset f.width + f.width) fun g hg => h g (List.mem_cons_of_mem _ hg)
    rw [nextPlace_eq _ _ (h f List.mem_cons_self)] at this
    rw [placesEnd, nextPlace_eq _ _ (h f List.mem_cons_self)]
    have : offset ≤ placeOf offset f.width := Nat.le_add_right _ _
    omega

theorem leAt_append_left (a b : List Byte) (o w : Nat) (h : o + w ≤ a.length) :
    leAt (a ++ b) o w = leAt a o w := by
  unfold leAt
  rw [List.drop_append_of_le_length (by omega), List.take_append_of_le_length (by simp; omega)]

theorem leAt_zero (l : List Byte) (o : Nat) (h : ∀ hi : o < l.length, l[o] = 0) : leAt l o 1 = 0 := by
  unfold leAt
  by_cases hi : o < l.length
  · rw [List.drop_eq_getElem_cons hi, h hi]; rfl
  · rw [List.drop_eq_nil_of_le (by omega)]; rfl

/-- Fields placed behind bytes that fill a block up to an offset stand in the block. -/
theorem blockOf_showsFields (front : List Byte) (fs : List Field) (h : ∀ f ∈ fs, 0 < f.width)
    (he : placesEnd front.length fs ≤ 256) :
    ShowsFields (blockOf 256 (front ++ placeFields front.length fs)).toList front.length fs := by
  induction fs generalizing front with
  | nil =>
    intro o h₁ h₂
    unfold Shows
    rw [leAt_blockOf _ (by omega), placeFields, List.append_nil]
    exact leAt_zero _ _ fun hi => absurd hi (by omega)
  | cons f fs ih =>
    have hw := h f List.mem_cons_self
    have hr : ∀ g ∈ fs, 0 < g.width := fun g hg => h g (List.mem_cons_of_mem _ hg)
    have hp : front.length ≤ placeOf front.length f.width := Nat.le_add_right _ _
    rw [placesEnd, nextPlace_eq _ _ hw] at he
    have hb := (placesEnd_ge _ _ hr).trans he
    let pad : List Byte := List.replicate (placeOf front.length f.width - front.length) 0
    have hl : (front ++ (pad ++ bytesLE f.width f.value)).length =
        placeOf front.length f.width + f.width := by
      simp [pad]; omega
    have hs := ih (front ++ (pad ++ bytesLE f.width f.value)) hr (by rw [hl]; exact he)
    rw [hl] at hs
    rw [placeFields_cons, ← List.append_assoc]
    refine ⟨?_, ?_, ?_⟩
    · intro o h₁ h₂
      rw [nextPlace_eq _ _ hw] at h₂
      unfold Shows
      rw [leAt_blockOf _ (by omega), leAt_append_left _ _ _ _ (by simp; omega)]
      refine leAt_zero _ _ fun hi => ?_
      rw [List.getElem_append_right h₁, List.getElem_append_left (by simp; omega)]
      simp
    · rw [nextPlace_eq _ _ hw]
      unfold Shows
      rw [leAt_blockOf _ hb]
      have := leAt_append_right (front ++ pad) (bytesLE f.width f.value ++
        placeFields (placeOf front.length f.width + f.width) fs) 0 f.width
      rw [leAt_bytesLE_append] at this
      rw [← this]
      have hlp : (front ++ pad).length = placeOf front.length f.width := by simp [pad]; omega
      rw [hlp]
      simp only [pad, List.append_assoc, Nat.add_zero]
    · rw [nextPlace_eq _ _ hw]
      exact hs

/-- A response that fits stands in the block as R193 lays it out. -/
theorem responseOf_showsResponse (code : Byte) (tag : Half) (r : Reply) (h : FitsBlock r.content) :
    ShowsResponse (responseOf code tag r).toList code tag r := by
  have header : ∀ k f offset, (headerFields code tag r)[k]? = some f → k < 5 →
      placeAt 0 [1, 1, 2, 2, 2] k = offset → offset + f.width ≤ 256 →
        Shows (responseOf code tag r).toList offset f.width f.value := by
    intro k f offset hf hk ho he
    have hw : placeAt 0 ((headerFields code tag r ++ r.content).map Field.width) k = offset := by
      rw [List.map_append, placeAt_append _ _ _ _ (by simpa [headerFields] using hk)]
      exact ho
    have := responseOf_shows (code := code) (tag := tag) (r := r) (k := k) (f := f)
      (by rw [List.getElem?_append_left (by simpa [headerFields] using hk)]; exact hf)
      (by rw [hw]; exact he)
    rw [hw] at this
    exact this
  have fits : ∀ n, n ≤ 8 → n ≤ 256 := fun n hn => by omega
  refine ⟨header 0 _ 0 rfl (by decide) rfl (fits _ (by simp [u8])),
    header 1 _ 1 rfl (by decide) rfl (fits _ (by simp [u8])),
    header 2 _ 2 rfl (by decide) rfl (fits _ (by simp [u16])),
    header 3 _ 4 rfl (by decide) rfl (fits _ (by simp [u16])),
    header 4 _ 6 rfl (by decide) rfl (fits _ (by simp [u16])), ?_⟩
  have hl : (placeFields 0 (headerFields code tag r)).length = 8 := by
    rw [placeFields_length,
      show (headerFields code tag r).map Field.width = [1, 1, 2, 2, 2] from rfl]
    rfl
  have := blockOf_showsFields (placeFields 0 (headerFields code tag r)) r.content h.1
    (by rw [hl]; exact h.2)
  rw [hl] at this
  have ha : placeFields 0 (headerFields code tag r ++ r.content) =
      placeFields 0 (headerFields code tag r) ++ placeFields 8 r.content := by
    simp [placeFields, headerFields, u8, u16]
  rw [← ha] at this
  exact this

/-! ## What the Record Unit answers fits the block -/

/-- Whether fields of the widths given fit the block behind the header. -/
def widthsFit (ws : List Nat) : Bool :=
  ws.all (0 < ·) && decide (ws.foldl (fun offset w => nextPlace offset w + w) 8 ≤ 256)

theorem placesEnd_eq_foldl (offset : Nat) (fs : List Field) :
    placesEnd offset fs =
      (fs.map Field.width).foldl (fun offset w => nextPlace offset w + w) offset := by
  induction fs generalizing offset with
  | nil => rfl
  | cons f fs ih => exact ih _

/-- Content whose widths fit. -/
theorem fitsBlock_of_widths {content : List Field} {ws : List Nat}
    (hw : content.map Field.width = ws) (h : widthsFit ws = true) : FitsBlock content := by
  subst hw
  simp only [widthsFit, Bool.and_eq_true, decide_eq_true_eq, List.all_map, List.all_eq_true,
    Function.comp_apply] at h
  exact ⟨h.1, by rw [placesEnd_eq_foldl]; exact h.2⟩

theorem fitsBlock_nil : FitsBlock [] := fitsBlock_of_widths rfl rfl

/-- The content of a request on a named record is the one for no record, or a report. -/
theorem onLine_content {u : RecordUnit} {h : Header} {site : Word} {line : Byte}
    {outOfRange change : Bool} {missing : List Field} {report : Touch → List Field}
    {body : Touch → Ending} {P : List Field → Prop} (hm : P missing) (hr : ∀ t, P (report t)) :
    P (onLine u h site line outOfRange change missing report body).reply.content := by
  unfold onLine
  split
  · exact hm
  · split
    · exact hm
    · dsimp only
      split
      · exact hr _
      · split <;> exact hr _

/-- A scan never gathers more matches than its maximum (R139). -/
theorem scanWalk_found_le (a : ScanArgs) (l : List LineRecord) (acc : Scan)
    (h : acc.found.length < a.maximum.toNat) :
    (scanWalk a l acc).found.length ≤ a.maximum.toNat := by
  induction l generalizing acc with
  | nil => exact h.le
  | cons r rest ih =>
    rw [scanWalk]
    dsimp only
    by_cases hit : scanMatches a (touch acc.unit r).line = true
    · rw [if_pos hit]
      by_cases he : (acc.found ++ [(touch acc.unit r).line]).length = a.maximum.toNat
      · rw [if_pos he]
        exact he.le
      · rw [if_neg he]
        refine ih _ ?_
        simp only [List.length_append, List.length_singleton] at he ⊢
        omega
    · rw [if_neg hit, if_neg (by omega)]
      exact ih _ h

/-- A scan's response fits with 30 matches (R193). -/
theorem scan_fits (acc : Scan) (h : acc.found.length ≤ 30) :
    FitsBlock acc.fields := by
  have hw : ∀ l : List LineRecord, ((l.map matchFields).flatten).map Field.width =
      (List.replicate l.length [2, 2, 2]).flatten := by
    intro l
    induction l with
    | nil => rfl
    | cons r rest ih =>
      simp only [List.map_cons, List.flatten_cons, List.map_append, ih, List.length_cons,
        List.replicate_succ]
      rfl
  refine fitsBlock_of_widths
    (ws := [1, 1, 2, 2, 2] ++ (List.replicate acc.found.length [2, 2, 2]).flatten) ?_ ?_
  · unfold Scan.fields
    rw [List.map_append, hw]
    rfl
  · have : ∀ n, n ≤ 30 →
        widthsFit ([1, 1, 2, 2, 2] ++ (List.replicate n [2, 2, 2]).flatten) = true := by
      decide +kernel
    exact this _ h

/-- The record image fits, to offset 255 with its longest part (R194). -/
theorem image_fits (lots : Vector Lot 64) (x : LineRecord) : FitsBlock (imageFields lots x) := by
  have hw := image_widths 0 0 (.plain .accepted []) lots x
  rw [List.map_append] at hw
  have hi : (imageFields lots x).map Field.width =
      imageWidths.drop 5 ++ (partFields lots x).map Field.width := by
    have := congrArg (List.drop 5) hw
    rw [List.drop_left' (by rfl)] at this
    rw [this, List.drop_append_of_le_length (by decide)]
  refine fitsBlock_of_widths hi ?_
  unfold partFields
  split
  · exact (by decide +kernel :
      widthsFit (imageWidths.drop 5 ++ ([1] ++ List.replicate 12 4)) = true)
  · exact (by decide +kernel : widthsFit (imageWidths.drop 5 ++
      ([1, 1, 1, 1, 4, 2] ++ List.replicate 12 4 ++ List.replicate 12 2)) = true)
  · exact (by decide +kernel : widthsFit (imageWidths.drop 5 ++
      ([2, 1, 1] ++ (List.replicate 12 [2, 2, 2, 1, 1]).flatten)) = true)
  · decide +kernel

/-- What the Record Unit answers fits the response block (R193). -/
theorem carryOut_fits (u : RecordUnit) (req : UnitRequest) :
    FitsBlock (carryOut u req).reply.content := by
  have fits : ∀ {content : List Field} (ws : List Nat), content.map Field.width = ws →
      widthsFit ws = true → FitsBlock content := fun _ hw h => fitsBlock_of_widths hw h
  unfold carryOut
  split
  · unfold carryCreateLine
    dsimp only
    repeat' split
    all_goals exact fitsBlock_nil
  · exact onLine_content fitsBlock_nil fun _ => image_fits _ _
  · exact onLine_content fitsBlock_nil fun _ => fitsBlock_nil
  · unfold carryMoveLine
    split
    · exact onLine_content fitsBlock_nil fun _ => fits [1, 2, 2] rfl (by decide)
    · exact fitsBlock_nil
  · unfold carrySetLineProfile
    split
    · exact onLine_content fitsBlock_nil fun _ => fits [1, 2] rfl (by decide)
    · exact fitsBlock_nil
  · exact onLine_content fitsBlock_nil fun _ => fits [1, 1, 1, 1] rfl (by decide)
  · exact onLine_content (fits [1, 1, 4] rfl (by decide)) fun _ => fits [1, 1, 4] rfl (by decide)
  · exact onLine_content fitsBlock_nil fun _ => fits [1, 1, 1] rfl (by decide)
  · exact onLine_content fitsBlock_nil fun _ => fits [1, 1, 1] rfl (by decide)
  · exact onLine_content fitsBlock_nil fun _ => fits [1, 1, 1, 1, 2] rfl (by decide)
  · exact onLine_content fitsBlock_nil fun _ => fits [1, 1, 1, 1] rfl (by decide)
  · exact onLine_content fitsBlock_nil fun _ => fits [1, 1, 1, 1, 1, 1] rfl (by decide)
  · exact fits verdictWidths rfl (by decide)
  · unfold carryWriteProfile
    dsimp only
    repeat' split
    all_goals exact fits [1, 1, 2] rfl (by decide)
  · unfold carryReadProfile
    split <;> exact fits (List.replicate 7 1 ++ List.replicate 21 2 ++ [1]) rfl (by decide)
  · exact fits [1] rfl (by decide)
  · unfold carryAddLot
    repeat' split
    all_goals first | exact fitsBlock_nil | exact fits [1, 4] rfl (by decide)
  · unfold carryReadLot
    repeat' split
    all_goals first
      | exact fitsBlock_nil
      | exact fits ([1, 1, 4, 1] ++ List.replicate 14 2) rfl (by decide)
  · unfold carryWithdrawLot
    repeat' split
    all_goals first | exact fitsBlock_nil | exact fits [1, 1] rfl (by decide)
  · unfold carryRemoveLot
    repeat' split
    all_goals first | exact fitsBlock_nil | exact fits [1] rfl (by decide)
  · unfold carrySetRegionHold
    repeat' split
    all_goals first | exact fitsBlock_nil | exact fits [1, 1, 1] rfl (by decide)
  · unfold carryReadRegion
    split
    · exact fits [1, 1, 1, 2, 2] rfl (by decide)
    · exact fitsBlock_nil
  · unfold carryCloseDay
    repeat' split
    all_goals exact fits [2, 1] rfl (by decide)
  · exact fits (8 :: List.replicate 64 2) rfl (by decide +kernel)
  · unfold carryScanLines
    split
    · exact fitsBlock_nil
    · rename_i a _ hr
      have bounds : a.maximum.toNat ≤ 30 ∧ 0 < a.maximum.toNat := by
        simp only [scanOutOfRange, Bool.or_eq_true, decide_eq_true_eq, not_or] at hr
        omega
      exact scan_fits _
        ((scanWalk_found_le a _ ⟨u, false, [], 0, none⟩ bounds.2).trans bounds.1)
  · unfold carryStartSurvey
    repeat' split
    all_goals exact fits [1, 1, 2, 2, 2] rfl (by decide)
  · unfold carryStopSurvey
    split <;> exact fits [1, 1, 2, 2, 2] rfl (by decide)
end Sys2Proof.Machine
end

