-- ==== Sys2Proof/Laws/Ring.lean ====
section
/-! SUPPORT. The free-slot ring as initialisation leaves it and as slots are taken from it. -/

namespace Sys2Proof.Machine

open Sys2Proof

/-- Positions 0 to 4094 of a filled ring hold slots 1 to 4095 (R12). -/
theorem ringAt_filled {u : RecordUnit} {old p : Nat} (hr : u.ring = filledRing old) (hp : p < 4095) :
    u.ringAt p = p + 1 := by
  have hm : p % 4096 = p := Nat.mod_eq_of_lt (by omega)
  have hl : p < (List.range' 1 4095 ++ [old]).length := by simp; omega
  unfold RecordUnit.ringAt
  rw [hm, hr]
  show ((List.range' 1 4095 ++ [old]).toArray.getD p 0) = p + 1
  rw [Array.getD_eq_getD_getElem?, List.getElem?_toArray,
    List.getElem?_append_left (by simpa using hp), List.getElem?_range' (by omega)]
  simp only [Option.getD_some]
  omega

/-- The slots a filled ring holds after its first `n` have been taken. -/
theorem heldSlots_filled {u : RecordUnit} {old n : Nat} (hr : u.ring = filledRing old)
    (ht : u.ringTail = 4095) (hh : u.ringHead = n) (hn : n ≤ 4095) :
    u.heldSlots = List.range' (n + 1) (4095 - n) := by
  have hc : u.freeCount = 4095 - n := by
    unfold RecordUnit.freeCount
    rw [ht, hh]
    omega
  unfold RecordUnit.heldSlots
  rw [hc, hh]
  apply List.ext_getElem
  · simp
  · intro i h1 h2
    have hi : i < 4095 - n := by simpa using h1
    rw [List.getElem_map, List.getElem_range, ringAt_filled hr (by omega), List.getElem_range']
    omega

end Sys2Proof.Machine
end

