-- ==== Sys2Proof/WellFormed.lean ====
section
/-! DEFINITION. The checks a command of the table meets beyond its operand types: an unknown code is
one the catalogue does not list (R160, R193), and a register write has bytes and lies in the 4 KiB
window (R179). Every other combination of operands is one the host or the part can send. -/

namespace Sys2Proof

/-- The size of the register window (R179). -/
def windowSize : Nat := 4096

/-- Whether a command is one the table's rows allow. -/
def Instr.wellFormed : Instr → Bool
  | .unknownCommand _ code => !Machine.knownCodes.contains code
  | .registerWrite offset bytes =>
    decide (0 < bytes.length) && decide (offset + bytes.length ≤ windowSize)
  | .createLine _ _ => true
  | .readLine _ _ => true
  | .retireLine _ _ => true
  | .moveLine _ _ => true
  | .setLineProfile _ _ => true
  | .setAims _ _ => true
  | .setLineLot _ _ => true
  | .startCrossover _ _ => true
  | .cancelCrossover _ _ => true
  | .acknowledge _ _ => true
  | .clearDrift _ _ => true
  | .reinstate _ _ => true
  | .submitReading _ _ => true
  | .writeProfile _ _ => true
  | .readProfile _ _ => true
  | .freezeProfiles _ => true
  | .addLot _ _ => true
  | .readLot _ _ => true
  | .withdrawLot _ _ => true
  | .removeLot _ _ => true
  | .setRegionHold _ _ => true
  | .readRegion _ _ => true
  | .closeDay _ _ => true
  | .regionPoll _ => true
  | .scanLines _ _ => true
  | .startSurvey _ _ => true
  | .stopSurvey _ => true
  | .openConfig _ _ => true
  | .closeConfig _ => true
  | .overrunClear _ => true
  | .arm => true
  | .abort => true
  | .pause => true
  | .resume => true
  | .armRefusedClear => true
  | .nextFieldWrite _ => true
  | .interruptStatusClear _ => true
  | .interruptEnableWrite _ => true
  | .portReset _ => true
  | .coldReset => true
  | .initialisationComplete => true
  | .readCompletion _ _ => true
  | .fetchError _ => true
  | .fetchTimeout => true
  | .recordUnitGrant => true
  | .commandComplete => true
  | .batchReadingComplete => true
  | .sweepStep => true
  | .surveyStep => true
  | .coldResetEnd => true

end Sys2Proof
end

