-- ==== Sys2Proof/Tests/Slice0.lean ====
section
/-! SUPPORT. Tests: the well-formedness smoke, the check code, worked values, and for every statement
with hypotheses a concrete state and operands that meet them, clause by clause. -/

-- One theorem at a time: theorems elaborated side by side wait on each other, a thread each.
set_option Elab.async false

namespace Sys2Proof.Tests

open Sys2Proof Sys2Proof.Machine

/-! ## A small machine -/

/-- A header with tag 7 and no expected version. -/
def plain : Header := ⟨0, 7, 0⟩

/-- A header with tag 7 and expected version 9. -/
def versioned : Header := ⟨1, 7, 9⟩

def limits : Limits := ⟨10, 20, 2, 15, 30⟩

/-- A profile of a kind: run limit 4, baseline of 2, strip interval 3, lapse limit 2, 2 pairs. -/
def profileOf (kind : ProcessKind) (useCount : Nat) : Profile :=
  ⟨some kind, 4, 2, 3, 2, 2, Vector.replicate 4 limits, useCount⟩

/-- A lot with offset 1 on every green point. -/
def lotOf (state : LotState) (code : Word) (kind : ProcessKind) (current incoming : Nat) : Lot :=
  ⟨state, code, some kind, build12 fun i => if isPoint .mono i then 1 else 0, current, incoming⟩

/-- An ACTIVE MONO record in slot 1: site 1, line 0, closed through day 10, aims 100. -/
def line : LineRecord :=
  { slot := 1, site := 1, lineNo := 0, region := 0, kind := .mono, profile := 0, version := 5,
    creationDay := 2, state := .active, closedDay := 10, countdown := 2, missed := 0,
    lastReading := some 9, readingCount := 3, lot := some 0, crossover := none,
    aims := some (Vector.replicate 12 100), baseline := none, stats := startStats, level := .ok,
    ackLevel := .ok, lapseEvent := false, mismatchEvent := false, attention := false,
    marginal := false, snapshot := none }

/-- A part in service on day 10 with one record: profile 0 MONO, profile 1 FILM; lots 1 and 2 OPEN
MONO, 3 WITHDRAWN MONO, 4 OPEN FILM. -/
def withLine (r : LineRecord) : State :=
  { State.reset with
    readiness := .ready
    unit := { RecordUnit.reset with
      records := [r]
      index := (Vector.replicate 1024 []).set 8 [1]
      ring := filledRing 0
      ringHead := 1
      ringTail := 4095
      profiles := ((Vector.replicate 32 Profile.unset).set 0 (profileOf .mono 1)).set 1
        (profileOf .film 0)
      lots := ((((Vector.replicate 64 Lot.vacant).set 0 (lotOf .opened 1 .mono 1 0)).set 1
        (lotOf .opened 2 .mono 0 0)).set 2 (lotOf .withdrawn 3 .mono 0 0)).set 3
        (lotOf .opened 4 .film 0 0)
      regions := (Vector.replicate 64 Region.reset).set 0 ⟨.run, .run, 1, 0⟩
      businessDay := 10 } }

def live : State := withLine line

def key : KeyArgs := ⟨1, 0⟩

theorem withLine_portFirst (r : LineRecord) : (withLine r).portFirst :=
  ⟨⟨rfl, rfl⟩, rfl, rfl, .inl rfl, fun _ => by show 0 < 8; decide, fun _ => by show 0 < 8; decide⟩

theorem live_lookup : live.unit.lookup key.site.toNat key.line.toNat = some line := by
  decide +kernel

theorem live_bucket : live.unit.index[bucketOf 1 0] = [1] := by decide +kernel

theorem withLine_lookup {r : LineRecord} (hs : r.slot = 1) (hk : r.site = 1) (hl : r.lineNo = 0) :
    (withLine r).unit.lookup key.site.toNat key.line.toNat = some r := by
  have hc : (withLine r).unit.index[bucketOf key.site.toNat key.line.toNat] = [1] := live_bucket
  have hr : (withLine r).unit.recordAt 1 = some r := by
    simp [RecordUnit.recordAt, withLine, hs]
  unfold RecordUnit.lookup
  rw [hc]
  simp [findInChain, hr, hk, hl, key]

theorem key_in_range : KeyInRange key.site key.line := by unfold KeyInRange; decide

theorem plain_agrees (r : LineRecord) : VersionAgrees plain r := fun h => absurd h (by decide)

/-- A record closed through the business day is touched without change. -/
theorem live_touch : touch live.unit line = ⟨line, live.unit, false⟩ := touch_closed (by decide)

/-! ## Well-formedness and the check code -/

theorem test_unknown_code_is_well_formed : (Instr.unknownCommand plain 0xF0).wellFormed = true := by
  decide

theorem test_known_code_is_refused : (Instr.unknownCommand plain 0x01).wellFormed = false := by
  decide

theorem test_empty_register_write_is_refused : (Instr.registerWrite 0 []).wellFormed = false := by
  decide

theorem test_register_write_past_the_window_is_refused :
    (Instr.registerWrite 4095 [1, 2]).wellFormed = false := by decide

theorem test_register_write_at_the_edge_is_well_formed :
    (Instr.registerWrite 4095 [1]).wellFormed = true := by decide

/-- The check value the manual gives: 0x29B1 for the nine digits (R194). -/
theorem test_check_code :
    checkCode [0x31, 0x32, 0x33, 0x34, 0x35, 0x36, 0x37, 0x38, 0x39] = 0x29B1 := by
  decide +kernel

/-! ## Witnesses: reset, port and gate -/

/-- The part with cold reset held. -/
def held : State := { State.reset with inColdReset := true }

theorem witness_cold_reset_held :
    held.inColdReset = true ∧ Instr.arm ≠ .coldReset ∧ Instr.arm ≠ .coldResetEnd := by
  refine ⟨rfl, ?_, ?_⟩ <;> simp

theorem witness_initialising :
    State.reset.inColdReset = false ∧ State.reset.readiness = .initialising ∧
      State.reset.port.phase = .idle := ⟨rfl, rfl, rfl⟩

/-- A step on an empty queue with something still to send, and with nothing. -/
theorem witness_empty_queue :
    State.reset.pending = [] ∧ State.reset.inColdReset = false ∧ State.reset.bus.outbound = [] ∧
      { State.reset.bus with outbound := [.message 1 2] }.outbound = [.message 1 2] :=
  ⟨rfl, rfl, rfl, rfl⟩

/-- A MOVE_LINE of site 1, line 2 to region 5, its bytes written out from R193. -/
theorem test_request_bytes :
    parseOp [0x04, 1, 7, 0, 9, 0, 0, 0, 1, 0, 0, 0, 2, 5] = .unit (.moveLine ⟨1, 2, 5⟩) ∧
      parseHeader [0x04, 1, 7, 0, 9, 0, 0, 0, 1, 0, 0, 0, 2, 5] = versioned := by
  decide

/-- A response with fields of widths 1 and 4 behind the header, its bytes written out from R193. -/
theorem test_response_bytes :
    (responseOf 0x23 7 ⟨.accepted, 0, 0, [u8 3, u32 0x01020304]⟩).toList.take 18 =
      [0x23, 0, 7, 0, 0, 0, 0, 0, 3, 0, 0, 0, 4, 3, 2, 1, 0, 0] ∧
      FitsBlock [u8 3, u32 0x01020304] := by
  refine ⟨by decide +kernel, by decide, by decide⟩

/-- The live part with a request of the Record Unit under way. -/
def carrying (g : Grant) : State := { live with unit := { live.unit with inProgress := some g } }

/-- A CLOSE_DAY as the port presents it. -/
def someRequest : UnitRequest := ⟨plain, .closeDay 11⟩

theorem witness_port_reset (data : RawReading) :
    live.inColdReset = false ∧ live.unit.inProgress = none ∧
      (carrying (.command someRequest false)).unit.inProgress =
        some (.command someRequest false) ∧
      (carrying (.reading data false)).unit.inProgress = some (.reading data false) ∧
      (carrying .sweepStep).unit.inProgress = some .sweepStep ∧
      (carrying .surveyStep).unit.inProgress = some .surveyStep := ⟨rfl, rfl, rfl, rfl, rfl, rfl⟩

theorem witness_completion :
    (carrying (.command someRequest false)).inColdReset = false ∧
      (carrying (.command someRequest false)).unit.inProgress =
        some (.command someRequest false) ∧
      (carrying (.command someRequest true)).inColdReset = false ∧
      (carrying (.command someRequest true)).unit.inProgress =
        some (.command someRequest true) := ⟨rfl, rfl, rfl, rfl⟩

/-- The two ends of the codes the catalogue leaves free, and one inside. -/
theorem witness_unknown_code :
    live.inService ∧ live.port.phase = .idle ∧ (0x00 : Byte) ∉ knownCodes ∧
      (0xFF : Byte) ∉ knownCodes ∧ (0xF0 : Byte) ∉ knownCodes :=
  ⟨⟨rfl, rfl⟩, rfl, by decide, by decide, by decide⟩

/-- The live part with the gate in a state. -/
def gated (g : Gate) : State := { live with gate := g }

theorem witness_request_taken :
    (gated .opened).inService ∧ (gated .opened).port.phase = .idle ∧
      portRefuses (gateAfterOther (gated .opened).gate) .freezeProfiles = none ∧
      portRefuses (gateAfterOther live.gate) (.readLine key) = none :=
  ⟨⟨rfl, rfl⟩, rfl, by decide, by decide⟩

/-- The live part with a request waiting. -/
def busy : State :=
  { live with port := { live.port with phase := .waiting someRequest } }

/-- The live part, IDLE, with a CLOSE_DAY in its request block. -/
def offered : State :=
  { live with
    port := { live.port with
      requestBlock := storeBytes live.port.requestBlock 0
        (encodeRequest plain (.unit (.closeDay 11))) } }

theorem witness_busy_and_offered :
    busy.inColdReset = false ∧ busy.port.phase ≠ .idle ∧ offered.inColdReset = false ∧
      offered.port.phase = .idle ∧
      offered.port.requestBlock = storeBytes live.port.requestBlock 0
        (encodeRequest plain (.unit (.closeDay 11))) := ⟨rfl, by simp [busy], rfl, rfl, rfl⟩

/-- Every cell of the gate's table: both keys and a wrong one, in each gate state. -/
theorem witness_gate :
    (∀ g, (gated g).inService ∧ (gated g).port.phase = .idle) ∧
      gateAfterKey .closed key1 = (.key1Seen, .accepted) ∧
      gateAfterKey .opened key1 = (.key1Seen, .accepted) ∧
      gateAfterKey .closed key2 = (.closed, .keyRejected) ∧
      gateAfterKey .opened key2 = (.closed, .keyRejected) ∧
      gateAfterKey .key1Seen key2 = (.opened, .accepted) ∧
      gateAfterKey .key1Seen key1 = (.closed, .keyRejected) ∧
      gateAfterKey .key1Seen 0 = (.closed, .keyRejected) :=
  ⟨fun _ => ⟨⟨rfl, rfl⟩, rfl⟩, by decide, by decide, by decide, by decide, by decide, by decide,
    by decide⟩

theorem witness_gated_requests :
    live.gate ≠ .opened ∧ (gated .key1Seen).gate ≠ .opened ∧ (gated .opened).gate = .opened :=
  ⟨by decide, by decide, rfl⟩

/-! ## Witnesses: line requests -/

/-- The premises the named requests share, for a record in any condition under the key. -/
theorem witness_named_accepted {r : LineRecord} (hs : r.slot = 1) (hk : r.site = 1)
    (hl : r.lineNo = 0) :
    (withLine r).portFirst ∧ (withLine r).unit.lookup key.site.toNat key.line.toNat = some r ∧
      KeyInRange key.site key.line ∧ VersionAgrees plain (touch (withLine r).unit r).line :=
  ⟨withLine_portFirst r, withLine_lookup hs hk hl, key_in_range, plain_agrees _⟩

/-- Keys at and past the ends of their ranges. -/
theorem witness_named_key_ranges :
    ¬KeyInRange 0 0 ∧ KeyInRange 1 0 ∧ KeyInRange 1048575 7 ∧ ¬KeyInRange 1048576 0 ∧
      ¬KeyInRange 1 8 := by unfold KeyInRange; decide

theorem witness_named_own_ranges :
    OwnFieldsInRange (.moveLine ⟨1, 0, 63⟩) ∧ ¬OwnFieldsInRange (.moveLine ⟨1, 0, 64⟩) ∧
      OwnFieldsInRange (.setLineProfile ⟨1, 0, 31⟩) ∧
      ¬OwnFieldsInRange (.setLineProfile ⟨1, 0, 32⟩) ∧
      OwnFieldsInRange (.setAims ⟨1, 0, Vector.replicate 12 5500⟩) ∧
      OwnFieldsInRange (.setAims ⟨1, 0, Vector.replicate 12 (-5500)⟩) ∧
      ¬OwnFieldsInRange (.setAims ⟨1, 0, Vector.replicate 12 5501⟩) ∧
      ¬OwnFieldsInRange (.setAims ⟨1, 0, Vector.replicate 12 (-5501)⟩) ∧
      OwnFieldsInRange (.setLineLot ⟨1, 0, 1⟩) ∧ ¬OwnFieldsInRange (.setLineLot ⟨1, 0, 0⟩) ∧
      OwnFieldsInRange (.startCrossover ⟨1, 0, 1⟩) ∧
      ¬OwnFieldsInRange (.startCrossover ⟨1, 0, 0⟩) := by
  unfold OwnFieldsInRange; decide

theorem witness_named_missing_and_stale :
    live.unit.lookup 1 7 = none ∧ ¬VersionAgrees versioned (touch live.unit line).line := by
  refine ⟨by decide +kernel, fun h => ?_⟩
  rw [live_touch] at h
  exact absurd (h (by decide)) (by decide)

/-- Each row of CREATE_LINE's table refuses some request, and one request passes them all. -/
theorem witness_create_table :
    let u := live.unit
    firstFailure (createTable u ⟨0, 0, 0, 3, 0, 0⟩) = some .badParameter ∧
      firstFailure (createTable u ⟨1, 1, 64, 3, 0, 0⟩) = some .badParameter ∧
      firstFailure (createTable u ⟨1, 1, 63, 0, 0, 0⟩) = some .badParameter ∧
      firstFailure (createTable u ⟨1, 1, 63, 3, 32, 0⟩) = some .badParameter ∧
      firstFailure (createTable u ⟨1, 0, 63, 3, 0, 0⟩) = some .exists ∧
      firstFailure (createTable { u with ringTail := 1 } ⟨1, 1, 63, 3, 0, 0⟩) =
        some .tableFull ∧
      firstFailure (createTable u ⟨1, 1, 63, 3, 31, 0⟩) = some .noProfile ∧
      firstFailure (createTable u ⟨1, 1, 63, 3, 1, 0⟩) = some .wrongKind ∧
      firstFailure (createTable u ⟨1, 1, 63, 3, 0, 9⟩) = some .unknownLot ∧
      firstFailure (createTable u ⟨1, 1, 63, 3, 0, 3⟩) = some .lotWithdrawn ∧
      firstFailure (createTable u ⟨1, 1, 63, 3, 0, 4⟩) = some .wrongKind ∧
      firstFailure (createTable u ⟨1, 1, 63, 3, 0, 0⟩) = none ∧
      firstFailure (createTable u ⟨1048575, 7, 63, 3, 0, 2⟩) = none := by decide +kernel

/-- The premises of an accepted CREATE_LINE, with a lot and without. -/
theorem witness_create_accepted :
    live.unit.lookup 1048575 7 = none ∧ live.unit.ringHead ≠ live.unit.ringTail ∧
      live.unit.profiles[(0 : Fin 32)].kind = some .mono ∧ live.unit.findLot 2 = some 1 ∧
      live.unit.lots[(1 : Fin 64)].state = .opened ∧
      live.unit.lots[(1 : Fin 64)].kind = some .mono := by decide +kernel

theorem witness_profile_kinds :
    live.unit.profiles[(0 : Fin 32)].kind = some line.kind ∧
      live.unit.profiles[(1 : Fin 32)].kind ≠ some line.kind ∧
      live.unit.profiles[(31 : Fin 32)].kind = none := by decide +kernel

/-- A record in another state. -/
def inState (st : SurvState) (lot : Option (Fin 64)) : LineRecord :=
  { line with
    state := st
    lot := lot }

theorem witness_aims_table :
    let mono : Vector Half 12 := build12 fun i => if isPoint .mono i then 90 else 0
    firstFailure (aimsTable line (mono.set 0 1)) = some .badParameter ∧
      firstFailure (aimsTable (inState .lapsed (some 0)) mono) = some .badState ∧
      firstFailure (aimsTable (inState .reinstating (some 0)) mono) = some .badState ∧
      firstFailure (aimsTable (inState .new none) mono) = some .badState ∧
      firstFailure (aimsTable line mono) = none ∧
      firstFailure (aimsTable (inState .new (some 0)) mono) = none := by decide +kernel

/-- A crossover to lot 1 with one of two pairs done and a reading held or not. -/
def crossing (h : Option Held) (done : Nat) : Crossover :=
  ⟨1, 2, done, Vector.replicate 12 0, h⟩

def lineCrossing (h : Option Held) (done : Nat) : LineRecord :=
  { line with crossover := some (crossing h done) }

theorem witness_lot_table :
    let u := live.unit
    firstFailure (setLotTable u (lineCrossing none 0) 2) = some .crossoverOpen ∧
      firstFailure (setLotTable u line 9) = some .unknownLot ∧
      firstFailure (setLotTable u line 3) = some .lotWithdrawn ∧
      firstFailure (setLotTable u line 4) = some .wrongKind ∧
      firstFailure (setLotTable u line 2) = none ∧ u.findLot 2 = some 1 ∧
      firstFailure (setLotTable u line 1) = none ∧ u.findLot 1 = some 0 := by decide +kernel

theorem witness_crossover_table :
    let u := live.unit
    firstFailure (crossoverTable u (inState .new none) 2) = some .badState ∧
      firstFailure (crossoverTable u (lineCrossing none 0) 2) = some .crossoverOpen ∧
      firstFailure (crossoverTable u line 9) = some .unknownLot ∧
      firstFailure (crossoverTable u line 3) = some .lotWithdrawn ∧
      firstFailure (crossoverTable u line 4) = some .wrongKind ∧
      firstFailure (crossoverTable u line 1) = some .badParameter ∧
      firstFailure (crossoverTable u line 2) = none := by decide +kernel

theorem witness_cancel_reinstate_and_drift :
    line.crossover = none ∧ (lineCrossing none 0).crossover = some (crossing none 0) ∧
      line.state = .active ∧ line.state ≠ .lapsed ∧ (inState .lapsed (some 0)).state = .lapsed ∧
      (inState .lapsed (some 0)).state ≠ .active := by decide

/-! ## Witnesses: readings -/

/-- The densities of a MONO strip that read 101 on every quantity. -/
def strip : List Nat := [0, 101, 0, 0, 101, 0, 0, 202, 0, 0, 101, 0]

/-- The first 46 bytes of a reading record of line 1/0. -/
def body (kind : Nat) (replace : Bool) (day lot : Nat) (densities : List Nat) : List Byte :=
  placeFields 0 ([u32 5, u32 1, u8 0, u8 kind, flag replace, u8 0, u16 day, u16 0, u32 lot] ++
    densities.map u16 ++ [u16 0])

/-- A reading record with its check code, or with another. -/
def record (kind : Nat) (replace : Bool) (day lot : Nat) (densities : List Nat)
    (good : Bool := true) : RawReading :=
  let b := body kind replace day lot densities
  blockOf 48 (b ++ bytesLE 2 ((checkCode b).toNat ^^^ (if good then 0 else 1)))

def today : RawReading := record 3 false 10 1 strip

/-- Verdict of the check, first failing row of the table for `line` changed by `f`. -/
def admission (f : LineRecord → LineRecord) (raw : RawReading) : Option Status :=
  firstFailure (admissionTable live.unit (f line) (parseReading raw))

theorem witness_check_code :
    checkPasses today = true ∧ checkPasses (record 3 false 10 1 strip false) = false ∧
      checkCode ((record 3 false 10 1 strip false).toList.take 46) ≠
        u16At (record 3 false 10 1 strip false).toList 46 := by decide +kernel

theorem witness_reading_key :
    (parseReading today).site = key.site ∧ (parseReading today).line = key.line ∧
      live.unit.lookup 1 1 = none ∧ live.unit.findLot (parseReading today).lotCode = some 0 := by
  decide +kernel

/-- A snapshot of day 10 under lot 0. -/
def snap : Snapshot := ⟨10, 0, startStats, .ok⟩

/-- The record image with each part in its part area (R194). -/
theorem test_image_parts :
    let sums : Points Int := Vector.replicate 12 0
    partCode line = 0 ∧ partCode { line with baseline := some ⟨1, sums⟩ } = 1 ∧
      partCode (lineCrossing none 1) = 2 ∧ partCode { line with snapshot := some snap } = 3 := by
  decide

/-- The worst point: a higher level wins, then a larger magnitude, then the earlier point (R65). -/
theorem test_worst_point :
    let point (d : Int) (shift : Bool) : PointStats := ⟨some d, 0, 0, 0, ⟨shift, false, false, false⟩⟩
    let r (a b c : PointStats) : LineRecord :=
      { line with stats := ((startStats.set 1 a).set 4 b).set 7 c }
    worstPoint line = none ∧
      worstPoint (r (point 9 false) (point 2 true) (point 7 false)) = some ⟨1, 3, 2⟩ ∧
      worstPoint (r (point 2 false) (point (-9) false) (point 9 false)) = some ⟨1, 3, -9⟩ := by
  decide

/-- Rows 1 to 8 of the admission table at the ends of their ranges. -/
theorem witness_admission_of_the_reading :
    admission id (record 1 false 10 1 strip) = some .wrongKind ∧
      admission id (record 3 false 10 1 (strip.set 1 5000)) = none ∧
      admission id (record 3 false 10 1 (strip.set 1 5001)) = some .range ∧
      admission id (record 3 false 10 1 (strip.set 0 1)) = some .range ∧
      admission id (record 3 false 11 1 strip) = some .futureDay ∧
      admission ({ · with lastReading := none }) (record 3 false 3 1 strip) = none ∧
      admission id (record 3 false 2 1 strip) = some .tooOld ∧
      admission id (record 3 false 10 9 strip) = some .unknownLot ∧
      admission id (record 3 false 10 3 strip) = some .lotWithdrawn := by decide +kernel

/-- Rows 9 to 16, by the record's condition. -/
theorem witness_admission_by_the_record :
    admission ({ · with state := .lapsed }) today = some .lapsed ∧
      admission id (record 3 false 10 2 strip) = some .lotNotAttached ∧
      admission ({ · with crossover := some (crossing none 0) }) (record 3 false 9 1 strip) =
        some .crossoverDay ∧
      admission id (record 3 true 10 1 strip) = some .noSnapshot ∧
      admission ({ · with snapshot := some snap }) (record 3 true 10 1 strip) = none ∧
      admission id (record 3 false 8 1 strip) = some .outOfOrder ∧
      admission id (record 3 false 9 1 strip) = some .duplicateDay ∧
      admission ({ · with crossover := some (crossing (some ⟨.new, 10, Vector.replicate 12 0⟩) 0) })
        (record 3 false 10 2 strip) = some .duplicateDay ∧
      admission id today = none := by decide +kernel

/-- A BASELINE record with one of two readings taken. -/
def half : LineRecord :=
  { line with
    state := .baseline
    aims := none
    baseline := some ⟨1, Vector.replicate 12 0⟩ }

/-- The premises of the four ways an accepted reading meets a record without a crossover. -/
theorem witness_reading_without_crossover :
    admission id today = none ∧ line.state = .active ∧ line.crossover = none ∧
      line.aims = some (Vector.replicate 12 100) ∧
      admission ({ · with state := .new, aims := none }) today = none ∧
      admission (fun _ => half) today = none ∧ half.baseline = some ⟨1, Vector.replicate 12 0⟩ ∧
      live.unit.profiles[half.profile].baselineCount ≤ 1 + 1 ∧
      1 < live.unit.profiles[half.profile].baselineCount ∧
      admission ({ · with state := .reinstating }) today = none := by decide +kernel

/-- The premises of a crossover reading: nothing held, the other side held, a lot withdrawn. -/
theorem witness_crossover_reading :
    let other (side : Side) : Held := ⟨side, 10, Vector.replicate 12 0⟩
    let withdrawn := live.unit.modifyLot 1 fun l => { l with state := .withdrawn }
    admission (fun _ => lineCrossing none 0) today = none ∧
      admission (fun _ => lineCrossing none 0) (record 3 false 10 2 strip) = none ∧
      admission (fun _ => lineCrossing (some (other .new)) 0) today = none ∧
      admission (fun _ => lineCrossing (some (other .old)) 1) (record 3 false 10 2 strip) = none ∧
      live.unit.lots[(0 : Fin 64)].state = .opened ∧ live.unit.lots[(1 : Fin 64)].state = .opened ∧
      withdrawn.lots[(1 : Fin 64)].state ≠ .opened ∧
      firstFailure (admissionTable withdrawn (lineCrossing (some (other .new)) 0)
        (parseReading today)) = none ∧
      (crossing none 0).pairsDone + 1 ≠ (crossing none 0).pairsRequired ∧
      (crossing none 1).pairsDone + 1 = (crossing none 1).pairsRequired := by decide +kernel

/-- A mean difference at the tolerance of 30 and one past it: sums 60 and 61 over 2 pairs. -/
theorem witness_crossover_tolerance :
    crossoverMatches (profileOf .mono 1) .mono (Vector.replicate 12 60) 2 = true ∧
      crossoverMatches (profileOf .mono 1) .mono (Vector.replicate 12 (-61)) 2 = false := by
  decide

/-- The part with a batch reading granted, on the Record Unit as a command would find it. -/
def batchOf (raw : RawReading) : State :=
  { live with
    unit := live.unit.start (.reading raw false) live.unit.arbiter
    engine := { BatchEngine.reset with
      phase := .running
      front := some ⟨1, ⟨false, false⟩, 0x1000, 0x2000, 0, 1⟩
      flight := some .granted } }

theorem witness_both_routes :
    live.portFirst ∧ checkPasses today = true ∧ (batchOf today).inColdReset = false ∧
      (batchOf today).bus.busMaster = true ∧
      (batchOf today).unit =
        live.unit.start (.reading today false) (batchOf today).unit.arbiter :=
  ⟨withLine_portFirst line, by decide +kernel, rfl, rfl, rfl⟩

/-- A mean at a half, on both sides of 0, and just inside it (R83). -/
theorem test_means :
    roundMean 5 2 = 3 ∧ roundMean (-5) 2 = -3 ∧ roundMean 4 3 = 1 ∧ roundMean (-4) 3 = -1 := by
  decide

/-- A grading of a MONO record grades its green points alone, and the level follows the worst of them
(R71, R80). -/
theorem test_graded_points :
    let graded := gradeStats (profileOf .mono 1) .mono (Vector.replicate 12 100)
      (Vector.replicate 12 121) startStats
    graded[3] = PointStats.start ∧ graded[4].lastDev = some 21 ∧ statsLevel graded = .action := by
  decide

/-- Runs and flags at the ends of their ranges (R75 to R77). -/
theorem test_point_bounds :
    nextRun 1 15 = 15 ∧ nextRun 1 (-3) = 1 ∧ nextRun (-1) (-15) = -15 ∧ nextRun (-1) 0 = -1 ∧
      nextRun 0 5 = 0 ∧ isShift limits 20 = false ∧ isShift limits (-21) = true ∧
      isExcursion limits 20 = true ∧ isExcursion limits 10 = false ∧ isExcursion limits 11 = true ∧
      isTrend 4 (-4) = true ∧ isTrend 4 3 = false ∧ boundCusum (-1) = 0 ∧
      boundCusum 32768 = 32767 := by decide

/-! ## Witnesses: business day, walkers and scans -/

/-- A record of `live` under work, with its countdown and missed count, and its region's mode. -/
def work (mode : HoldMode) (countdown missed : Nat) : Touch :=
  { line := { line with
      countdown := countdown
      missed := missed }
    unit := live.unit.modifyRegion 0 fun g => { g with closing := mode }
    attention := false }

/-- Each branch of the day step is met at the edge of its condition. -/
theorem witness_day_step :
    (work .hold 2 0).unit.regions[(0 : Fin 64)].closing = .hold ∧
      (work .holdAtDue 1 0).unit.regions[(0 : Fin 64)].closing = .holdAtDue ∧
      (work .run 2 0).unit.regions[(0 : Fin 64)].closing = .run ∧
      min (work .run 2 0).line.countdown (profileOf .mono 1).stripInterval = 2 ∧
      min (work .run 7 0).line.countdown (profileOf .mono 1).stripInterval = 3 ∧
      (work .run 1 0).line.missed + 1 < (profileOf .mono 1).lapseLimit ∧
      (profileOf .mono 1).lapseLimit ≤ (work .run 1 1).line.missed + 1 ∧
      line.state = .active := by decide +kernel

theorem test_day_step_at_due_is_held : (work .holdAtDue 1 0).dayStep.line.countdown = 1 := by
  decide +kernel

theorem test_second_miss_lapses :
    (work .run 1 1).dayStep.line.state = .lapsed ∧ (work .run 1 1).dayStep.line.attention = true ∧
      (work .run 1 1).dayStep.unit.regions[(0 : Fin 64)].attentionCount = 1 := by decide +kernel

/-- The live part on a business day that a sweep or survey is walking. -/
def walking (r : LineRecord) (sweep : Sweep) (survey : Survey) (g : Option Grant) : State :=
  { withLine r with
    unit := { (withLine r).unit with
      sweep := sweep
      survey := survey
      inProgress := g } }

/-- Days at the ends of CLOSE_DAY's range, and region and mode codes at theirs. -/
theorem witness_close_day :
    live.unit.businessDay = 10 ∧ (10 : Half).toNat ≤ 10 ∧ 10 < (11 : Half).toNat ∧
      (17 : Half).toNat ≤ 10 + 7 ∧ 10 + 7 < (18 : Half).toNat ∧
      live.unit.sweep.running = false ∧
      (walking line ⟨true, 1⟩ live.unit.survey none).unit.sweep.running = true ∧
      (walking line ⟨true, 1⟩ live.unit.survey none).portFirst ∧
      holdOfCode 0 = some .run ∧ holdOfCode 2 = some .hold ∧ holdOfCode 3 = none :=
  ⟨rfl, by decide, by decide, by decide, by decide, rfl, rfl,
    ⟨⟨rfl, rfl⟩, rfl, rfl, .inl rfl, fun _ => by show 0 < 8; decide, fun _ => by show 0 < 8; decide⟩,
    by decide, by decide, by decide⟩

/-- The record in the last slot. -/
def last : LineRecord := { line with slot := 4095 }

/-- A walk that meets a record below slot 4095, one that meets slot 4095, and one that meets none. -/
theorem witness_walker_steps (survey : Survey) (g : Grant) :
    (walking line ⟨true, 1⟩ survey (some g)).unit.records = [] ++ line :: [] ∧
      line.slot < 4095 ∧ 1 ≤ line.slot ∧
      (walking last ⟨true, 4095⟩ survey (some g)).unit.records = [] ++ last :: [] ∧
      4095 ≤ last.slot ∧
      (∀ r ∈ (walking line ⟨true, 2⟩ survey (some g)).unit.records, r.slot < 2) := by
  refine ⟨rfl, by decide, by decide, rfl, by decide, fun r hr => ?_⟩
  obtain rfl : r = line := by simpa [walking, withLine] using hr
  decide

/-- A survey margin of 50 over A = 20 marks at a deviation of 10 and not at 9 (R145). -/
theorem witness_survey_mark :
    let p (d : Int) : PointStats := ⟨some d, 0, 0, 0, Flags.none⟩
    marginalTest (profileOf .mono 1) 50 { line with stats := startStats.set 1 (p 10) } = true ∧
      marginalTest (profileOf .mono 1) 50 { line with stats := startStats.set 1 (p (-9)) } =
        false := by decide

theorem witness_survey_requests :
    live.unit.survey.state ≠ .running ∧ ¬((50 : Byte).toNat < 50 ∨ 99 < (50 : Byte).toNat) ∧
      ¬((99 : Byte).toNat < 50 ∨ 99 < (99 : Byte).toNat) ∧ (49 : Byte).toNat < 50 ∧
      99 < (100 : Byte).toNat ∧
      (walking line live.unit.sweep ⟨.running, 50, 1, 0, 0, 0⟩ none).unit.survey.state = .running ∧
      (walking line live.unit.sweep ⟨.running, 50, 1, 0, 0, 0⟩ none).portFirst :=
  ⟨by decide, by decide, by decide, by decide, by decide, rfl,
    ⟨rfl, rfl⟩, rfl, rfl, .inl rfl, fun _ => by show 0 < 8; decide, fun _ => by show 0 < 8; decide⟩

theorem witness_scan_ranges :
    let outOfRange (a : ScanArgs) : Bool := decide (
      a.start.toNat = 0 ∨ 4095 < a.start.toNat ∨ 63 < a.region.toNat ∧ a.region.toNat ≠ 0xFF ∨
        a.states.toNat = 0 ∨ 31 < a.states.toNat ∨ 2 < a.minLevel.toNat ∨ a.maximum.toNat = 0 ∨
        30 < a.maximum.toNat)
    ([⟨0, 0xFF, 31, 0, 0, 0, 30⟩, ⟨4096, 0xFF, 31, 0, 0, 0, 30⟩, ⟨1, 64, 31, 0, 0, 0, 30⟩,
      ⟨1, 0xFF, 0, 0, 0, 0, 30⟩, ⟨1, 0xFF, 32, 0, 0, 0, 30⟩, ⟨1, 0xFF, 31, 3, 0, 0, 30⟩,
      ⟨1, 0xFF, 31, 0, 0, 0, 0⟩, ⟨1, 0xFF, 31, 0, 0, 0, 31⟩] : List ScanArgs).all
        outOfRange = true ∧
      outOfRange ⟨1, 0xFF, 31, 2, 0, 0, 30⟩ = false ∧ outOfRange ⟨4095, 63, 1, 0, 1, 1, 1⟩ = false :=
  by decide

/-! ## Witnesses: tables -/

theorem witness_table_reads :
    live.portFirst ∧ (31 : Byte).toNat = (31 : Fin 32).val ∧ 31 < (32 : Byte).toNat ∧
      (63 : Byte).toNat = (63 : Fin 64).val ∧ 63 < (64 : Byte).toNat ∧
      live.unit.findLot 9 = none ∧ live.unit.findLot 4 = some 3 :=
  ⟨withLine_portFirst line, by decide, by decide, by decide, by decide, by decide +kernel,
    by decide +kernel⟩

/-- A READ_PROFILE above 31 reports the freeze as it stands in its last byte (R34). -/
theorem test_read_profile_out_of_range_reports_the_freeze :
    (carryReadProfile { live.unit with freeze := true } 32).reply.content.getLast? =
      some (u8 1) ∧
      (carryReadProfile live.unit 32).reply.content.getLast? = some (u8 0) := by
  decide +kernel

theorem witness_gate_open_port_first : (gated .opened).portFirst ∧ (gated .opened).gate = .opened :=
  ⟨⟨⟨rfl, rfl⟩, rfl, rfl, .inl rfl, fun _ => by show 0 < 8; decide, fun _ => by show 0 < 8; decide⟩,
    rfl⟩

/-- A WRITE_PROFILE of a kind with one run limit and good parameters otherwise. -/
def writeOf (profile kind runLimit : Byte) : WriteProfileArgs :=
  ⟨profile, kind, runLimit, 8, 7, 15, 5, Vector.replicate 4 ⟨10, 20, 2, 15, 30⟩⟩

theorem witness_profile_table :
    let u := live.unit
    let check (u : RecordUnit) (i : Fin 32) (kind runLimit : Byte) : Option Status :=
      firstFailure (profileTable u u.profiles[i] (writeOf (BitVec.ofNat 8 i.val) kind runLimit))
    check u 0 4 15 = some .badParameter ∧ check u 0 3 2 = some .badParameter ∧
      check u 0 3 16 = some .badParameter ∧ check { u with freeze := true } 0 3 15 = some .locked ∧
      check u 0 1 15 = some .inUse ∧ check u 0 0 15 = some .inUse ∧ check u 0 3 3 = none ∧
      check u 31 1 15 = none ∧ check u 31 0 0 = none := by decide +kernel

theorem witness_lot_requests :
    let good (a : AddLotArgs) : Prop := a.lot ≠ 0 ∧ kindOfCode a.kind.toNat = some .mono ∧
      ∀ i : Fin 12, -500 ≤ a.offsets[i].toInt ∧ a.offsets[i].toInt ≤ 500 ∧
        (isPoint .mono i = false → a.offsets[i] = 0)
    let at1 (v : Half) : Vector Half 12 := (Vector.replicate 12 0).set 1 v
    good ⟨9, 3, at1 500⟩ ∧ good ⟨9, 3, at1 (-500)⟩ ∧ ¬good ⟨9, 3, at1 501⟩ ∧
      ¬good ⟨9, 3, at1 (-501)⟩ ∧ ¬good ⟨0, 3, at1 0⟩ ∧
      ¬good ⟨9, 3, (Vector.replicate 12 0).set 0 1⟩ ∧ kindOfCode 0 = none ∧ kindOfCode 4 = none ∧
      live.unit.findLot 9 = none ∧ live.unit.findLot 1 = some 0 ∧ live.unit.findLot 2 = some 1 ∧
      0 < live.unit.lots[(0 : Fin 64)].currentUsers ∧
      live.unit.lots[(1 : Fin 64)].currentUsers = 0 ∧
      live.unit.lots[(1 : Fin 64)].incomingUsers = 0 ∧
      live.unit.lots[(4 : Fin 64)].state = .free ∧
      (∀ j : Fin 64, j < 4 → live.unit.lots[j].state ≠ .free) := by decide +kernel

/-- A Lot Table without a FREE entry. -/
theorem witness_lot_table_full :
    ∀ i : Fin 64, ({ live.unit with
      lots := Vector.replicate 64 (lotOf .opened 1 .mono 0 0) } : RecordUnit).lots[i].state ≠ .free := by
  decide +kernel

/-! ## Witnesses: arbiter -/

/-- The part with the clients that wait and what the arbiter keeps. -/
def contending (port engine sweep survey : Bool) (a : Arbiter) : State :=
  { live with
    unit := { live.unit with
      sweep := ⟨sweep, if sweep then 1 else 0⟩
      survey := { live.unit.survey with state := if survey then .running else .done }
      arbiter := a }
    port := { live.port with phase := if port then .waiting someRequest else .idle }
    engine := { live.engine with flight := if engine then some (.submitted today) else none } }

/-- Who is granted in each case of R15, at the counts where a walker comes to be owed. -/
theorem test_grants :
    (contending true true true true ⟨8, 8, .batchEngine, .survey⟩).nextClient = some .sweep ∧
      (contending true true true true ⟨8, 8, .batchEngine, .sweep⟩).nextClient = some .survey ∧
      (contending true true true true ⟨7, 8, .batchEngine, .survey⟩).nextClient = some .survey ∧
      (contending true true true true ⟨8, 7, .batchEngine, .sweep⟩).nextClient = some .sweep ∧
      (contending true true true true ⟨7, 7, .batchEngine, .sweep⟩).nextClient =
        some .commandPort ∧
      (contending true true true true ⟨7, 7, .commandPort, .sweep⟩).nextClient =
        some .batchEngine ∧
      (contending true false true true ⟨7, 7, .commandPort, .sweep⟩).nextClient =
        some .commandPort ∧
      (contending false false true true ⟨0, 0, .commandPort, .sweep⟩).nextClient = some .survey ∧
      (contending false false true true ⟨0, 0, .commandPort, .survey⟩).nextClient = some .sweep ∧
      (contending false false false false ⟨0, 0, .commandPort, .survey⟩).nextClient = none := by
  refine ⟨rfl, rfl, rfl, rfl, rfl, rfl, rfl, rfl, rfl, rfl⟩

theorem witness_grant (port engine sweep survey : Bool) (a : Arbiter) :
    let s := contending port engine sweep survey a
    s.inColdReset = false ∧ s.readiness = .ready ∧ s.unit.inProgress = none ∧
      s.unit.arbiter = a ∧ s.unit.sweep.running = sweep ∧
      (carrying .sweepStep).unit.inProgress ≠ none ∧ State.reset.readiness = .initialising :=
  ⟨rfl, rfl, rfl, rfl, rfl, by simp [carrying], rfl⟩

/-! ## Witnesses: Batch Engine -/

/-- A descriptor that ARM accepts: one reading, both addresses multiples of 16. -/
def descriptor : Descriptor := ⟨0x1000, 1, 0x2000, ⟨true, true⟩⟩

/-- The live part with an engine. -/
def withEngine (e : BatchEngine) : State := { live with engine := e }

/-- An engine in a phase, with `count` readings in FRONT, and a reading in flight or none. -/
def engineIn (phase : EnginePhase) (count : Nat) (flight : Option Flight) : BatchEngine :=
  { BatchEngine.reset with
    phase := phase
    front := some ⟨BitVec.ofNat 16 count, ⟨true, true⟩, 0x1000, 0x2000, 0, count⟩
    next := descriptor
    flight := flight }

def fetching : Flight := .fetch 0 (fetchReads true 0x1000)

theorem witness_arm :
    let good (s : State) : Prop := s.readiness = .ready ∧ s.engine.armed = false ∧
      s.engine.next.count ≠ 0 ∧ s.engine.next.source.toNat % 16 = 0 ∧
      s.engine.next.result.toNat % 16 = 0
    good (withEngine { BatchEngine.reset with next := descriptor }) ∧
      BatchEngine.reset.phase = .idle ∧ good (withEngine (engineIn .paused 2 none)) ∧
      (engineIn .paused 2 none).phase ≠ .idle ∧ ¬good live ∧ ¬good State.reset ∧
      ¬good (withEngine { BatchEngine.reset with next := { descriptor with source := 0x1008 } }) ∧
      ¬good (withEngine { BatchEngine.reset with next := { descriptor with result := 0x2008 } }) ∧
      ¬good (withEngine { BatchEngine.reset with
        next := descriptor
        armed := true }) := by
  decide

theorem witness_abort_and_pause :
    (engineIn .running 2 (some .granted)).phase = .running ∧
      (engineIn .running 2 (some .granted)).abortPending = false ∧
      (engineIn .running 2 (some .granted)).flight = some .granted ∧
      (engineIn .running 2 (some fetching)).flight ≠ some .granted ∧
      (engineIn .paused 2 none).phase = .paused ∧
      (engineIn .paused 2 none).front =
        some ⟨2, ⟨true, true⟩, 0x1000, 0x2000, 0, 2⟩ ∧
      ({ engineIn .running 2 (some .granted) with abortPending := true } : BatchEngine).phase =
        .running ∧ BatchEngine.reset.phase = .idle := by
  refine ⟨rfl, rfl, rfl, by simp [engineIn, fetching], rfl, rfl, rfl, rfl⟩

theorem witness_next_fields :
    live.engine.armed = false ∧
      (withEngine { BatchEngine.reset with armed := true }).engine.armed = true := ⟨rfl, rfl⟩

/-- A fetch that is outstanding, with a completion that passes and one that does not, and the
options and counts of the clause on the verdict written at once. -/
theorem witness_fetch :
    let s := withEngine (engineIn .running 2 (some fetching))
    let f : Front := ⟨2, ⟨true, false⟩, 0x1000, 0x2000, 0, 2⟩
    s.engine.flight = some (.fetch 0 (fetchReads true 0x1000)) ∧
      s.engine.front = some ⟨2, ⟨true, true⟩, 0x1000, 0x2000, 0, 2⟩ ∧
      fetchReads true 0x1000 ≠ [] ∧ checkPasses today = true ∧
      checkPasses (record 3 false 10 1 strip false) = false ∧ s.engine.abortPending = false ∧
      f.options.onRefusal = false ∧ 1 < f.remaining ∧
      (∀ reads, s.engine.flight ≠ some (.fetch 1 reads)) ∧
      (∀ n reads, live.engine.flight ≠ some (.fetch n reads)) :=
  ⟨rfl, rfl, by decide, by decide +kernel, by decide +kernel, rfl, rfl, by decide,
    by simp [withEngine, engineIn, fetching], by simp [live, withLine, State.reset, BatchEngine.reset]⟩

/-- A fetch kept off the link, bus mastering disabled (R186). -/
theorem witness_fetch_off_the_link :
    (engineIn .running 2 (some (.fetch 0 (fetchReads false 0x1000)))).flight =
      some (.fetch 0 []) := rfl

/-- A fetch that ends on a 4 KiB boundary is one read; one that crosses it is two (R186). -/
theorem test_fetch_split :
    fetchReads true 0x1FD0 = [⟨0x1FD0, 48⟩] ∧
      fetchReads true 0x1FE0 = [⟨0x1FE0, 32⟩, ⟨0x2000, 16⟩] := by decide

/-- A verdict that crosses a 4 KiB boundary, and one that ends on it. -/
theorem test_verdict_split :
    let bytes : List Byte := List.replicate 32 7
    writeItems 0x1FE0 bytes = [.write 0x1FE0 bytes] ∧
      writeItems 0x1FF0 bytes =
        [.write 0x1FF0 (List.replicate 16 7), .write 0x2000 (List.replicate 16 7)] := by
  decide

theorem witness_batch_reading :
    (batchOf today).inColdReset = false ∧
      (batchOf today).unit.inProgress = some (.reading today false) ∧
      (batchOf today).engine.front = some ⟨1, ⟨false, false⟩, 0x1000, 0x2000, 0, 1⟩ ∧
      (carrying (.reading today true)).unit.inProgress = some (.reading today true) :=
  ⟨rfl, rfl, rfl, rfl⟩

/-- Each end cause, and none, for some verdict: by what pends, the options and what remains. -/
theorem test_end_causes :
    let f (action refusal : Bool) (remaining : Nat) : Front :=
      ⟨2, ⟨action, refusal⟩, 0, 0, 1, remaining⟩
    let v := Verdict.noRecord (parseReading today) .badCheck
    endCauseOf (f true true 0) true v = some .aborted ∧
      endCauseOf (f true true 0) false { v with newAction := true } = some .stopAction ∧
      endCauseOf (f true true 0) false v = some .stopRefusal ∧
      endCauseOf (f true false 0) false v = some .complete ∧
      endCauseOf (f true false 1) false v = none := by
  refine ⟨rfl, rfl, rfl, rfl, rfl⟩

/-! ## Witnesses: Bus Link -/

/-- Writes at the ends of the request block, over its edges, beside it, and at places that are no
register. -/
theorem witness_window_writes :
    live.inColdReset = false ∧
      0x07C ∉ [0x020, 0x024, 0x030, 0x040, 0x200, 0x204, 0x208, 0x20C, 0x210, 0x214, 0x218] ∧
      0x208 ∉ [0x200, 0x210] ∧ ([1, 2] : List Byte).length ≠ 4 ∧
      ([1, 2] : List Byte).length ≠ 8 ∧
      (match exec (.registerWrite 0x07E [1, 2, 3, 4]) live with
        | .next t => t.port.requestBlock.toList.take 3 == [3, 4, 0]
        | _ => false) = true ∧
      (match exec (.registerWrite 0x0BF [5, 6]) live with
        | .next t => t.port.requestBlock.toList.drop 62 == [0, 5]
        | _ => false) = true := by
  refine ⟨rfl, by decide, by decide, by decide, by decide, ?_, ?_⟩ <;> decide +kernel

/-- One write of the batch control word: ABORT ends the batch, then ARM takes the NEXT fields as a
batch of their own, with the fetch after the one given up (R166). -/
theorem test_abort_and_arm_in_one_write :
    (match exec (.registerWrite 0x218 [0x03, 0, 0, 0])
        (withEngine (engineIn .running 2 (some fetching))) with
      | .next t => decide (t.engine.phase = .running ∧ t.engine.report.cause = .aborted ∧
          t.engine.front = some ⟨1, ⟨true, true⟩, 0x1000, 0x2000, 0, 1⟩ ∧
          t.engine.flight = some fetching ∧ t.fetchSerial = 1)
      | _ => false) = true := by
  decide +kernel

/-- The control words as read: a paused engine with ARM_REFUSED, and a port busy with OVERRUN. -/
theorem test_control_words :
    (withEngine { engineIn .paused 2 none with armRefused := true }).windowRead 0x218 4 =
        some [0x10, 2, 0, 0] ∧
      { live with port := { live.port with
        phase := .granted
        overrun := true } }.windowRead 0x040 4 = some [0x0A, 0, 0, 0] ∧
      (withEngine (engineIn .paused 2 none)).windowRead 0x220 4 = some [2, 0, 3, 0] ∧
      held.windowRead 0x000 4 = none := by
  decide +kernel

/-- The bytes the record takes in the device status word: free count high, live count low (R179). -/
theorem test_device_status : live.windowRead 0x008 4 = some [1, 0, 0xFE, 0x0F] := by
  decide +kernel

/-! ## Witnesses: invariants -/

theorem witness_engine_and_clients :
    EngineInv live ∧ ClientInv live ∧ step live = .next live := by
  refine ⟨?_, ?_, rfl⟩
  · constructor <;> simp [live, withLine, State.reset, BatchEngine.reset, RecordUnit.reset]
  · constructor <;>
      simp [live, withLine, State.reset, CommandPort.reset, RecordUnit.reset]

theorem witness_lines : LinesInv live ∧ step live = .next live := by
  refine ⟨fun r hr => ?_, rfl⟩
  obtain rfl : r = line := by simpa [live, withLine] using hr
  have hp : ∀ i : Fin 12, line.stats[i] = PointStats.start := by decide
  constructor
  · simp [StateParts, line]
  · decide
  · decide
  · decide
  · intro i
    rw [hp i]
    simp [PointInv, PointStats.start, Flags.none]
  · exact fun i _ => hp i
  · decide
  · simp [line]
  · simp [line]

theorem live_index (b : Fin 1024) :
    live.unit.index[b] = if b = bucketOf 1 0 then [1] else [] := by
  show ((Vector.replicate 1024 ([] : List Nat)).set 8 [1])[b.val] = _
  rw [Vector.getElem_set]
  by_cases h : b = bucketOf 1 0
  · subst h
    simp [bucketOf]
  · have : 8 ≠ b.val := fun e => h (Fin.ext (by simp [bucketOf, ← e]))
    simp [h, this]

theorem live_recordAt (n : Nat) : live.unit.recordAt n = if n = 1 then some line else none := by
  by_cases h : n = 1
  · subst h
    rfl
  · have : ¬1 = n := fun e => h e.symm
    simp [RecordUnit.recordAt, live, withLine, line, h, this]

theorem live_held : live.unit.heldSlots = List.range' 2 4094 :=
  heldSlots_filled (old := 0) rfl rfl rfl (by decide)

theorem witness_table : TableInv live ∧ step live = .next live := by
  refine ⟨?_, rfl⟩
  constructor
  · simp [live, withLine]
  · simp [live, withLine, line, lastSlot]
  · simp [live, withLine]
  · intro b
    rw [live_index]
    split <;> simp
  · intro b n
    rw [live_index]
    by_cases h : b = bucketOf 1 0
    · subst h
      simp [live, withLine, line, eq_comm]
    · simp [live, withLine, h, line, Ne.symm h]
  · decide
  · rw [live_held]
    exact List.nodup_range'
  · intro _ n
    rw [live_held, live_recordAt, List.mem_range'_1]
    simp only [lastSlot]
    split <;> simp <;> omega
  · intro h
    exact absurd h (by simp [live, withLine])

theorem witness_counts : TableInv live ∧ CountsInv live ∧ step live = .next live := by
  refine ⟨witness_table.1, ?_, rfl⟩
  constructor
  · decide +kernel
  · decide +kernel
  · decide +kernel
  · decide +kernel
  · decide +kernel
  · unfold ProfileInv
    decide +kernel
  · decide +kernel
  · decide +kernel
  · simp [live, withLine, line]
  · decide +kernel
  · decide +kernel
  · simp [live, withLine, line]

theorem witness_days :
    TableInv live ∧ LinesInv live ∧ ClosedInv live ∧ step live = .next live := by
  refine ⟨witness_table.1, witness_lines.1, ?_, rfl⟩
  constructor <;> simp [live, withLine, line]

theorem witness_scan : live.portFirst ∧ TableInv live :=
  ⟨withLine_portFirst line, witness_table.1⟩

end Sys2Proof.Tests
end

section
/-! The actions of the part: every command is a run of a few basic actions within one event, or one
of the two cold-reset rows. What a step keeps is then shown once for each action. -/

namespace Sys2Proof.Machine

open Sys2Proof

/-- The Batch Engine's own actions. -/
inductive BatchActs : State → State → Prop
  | nextWritten (w : NextWrite) (s : State) : BatchActs s (writeNext w s)
  | armRefusedCleared (s : State) : BatchActs s (clearArmRefused s)
  | aborted (s : State) : BatchActs s (abortBatch s)
  | paused (s : State) : BatchActs s (pauseBatch s)
  | resumed (s : State) : BatchActs s (resumeBatch s)
  | armed (s : State) : BatchActs s (armNext s)
  | fetchCompleted (fetch : Nat) (data : RawReading) (s : State) :
      BatchActs s (readCompletion fetch data s)
  | fetchFailed (fetch : Nat) (s : State) : BatchActs s (fetchError fetch s)
  | fetchTimedOut (s : State) : BatchActs s (fetchTimeout s)

/-- One basic action of the part, within an event outside cold reset. -/
inductive Acts : State → State → Prop
  | blockWritten (s : State) (block : Vector Byte 64) :
      Acts s { s with port := { s.port with requestBlock := block } }
  | overrunCleared (s : State) : Acts s { s with port := { s.port with overrun := false } }
  | offered (h : Header) (op : PortOp) (s : State) : Acts s (offerRequest h op s)
  | sourcesCleared (value : Word) (s : State) : Acts s (clearSources value s)
  | enablesWritten (value : Word) (s : State) : Acts s (writeEnables value s)
  | portReset (s : State) : Acts s (portReset s)
  | batch {s t : State} (h : BatchActs s t) : Acts s t
  | initialised (s : State) : Acts s (initialise s)
  | granted (s : State) : Acts s (grant s)
  | commandCompleted (s : State) : Acts s (completeCommand s)
  | readingCompleted (s : State) : Acts s (completeReading s)
  | sweepStepped (s : State) : Acts s (sweepStep s)
  | surveyStepped (s : State) : Acts s (surveyStep s)

/-- Basic actions one after another, within one event. -/
abbrev Runs : State → State → Prop := Relation.ReflTransGen Acts

theorem Acts.runs {s t : State} (h : Acts s t) : Runs s t := .single h

theorem BatchActs.runs {s t : State} (h : BatchActs s t) : Runs s t := .single (.batch h)

/-- An action whose control bit may be clear. -/
theorem runs_ite {s t : State} {c : Prop} [Decidable c] (h : Runs s t) :
    Runs s (if c then t else s) := by
  split
  · exact h
  · exact .refl

theorem pressGo_runs (s : State) : Runs s (pressGo s) := (Acts.offered _ _ s).runs

theorem placeRequest_runs (h : Header) (op : PortOp) (s : State) :
    Runs s (placeRequest h op s) := (Acts.blockWritten s _).runs

theorem writeCommandControl_runs (value : Word) (s : State) :
    Runs s (writeCommandControl value s) :=
  (runs_ite (Acts.overrunCleared s).runs).trans (runs_ite (pressGo_runs _))

/-- The actions of one write to the batch control word, in the order of R166. -/
theorem writeBatchControl_runs (value : Word) (s : State) :
    Runs s (writeBatchControl value s) :=
  (runs_ite (BatchActs.armRefusedCleared _).runs).trans <|
    (runs_ite (BatchActs.aborted _).runs).trans <| (runs_ite (BatchActs.paused _).runs).trans <|
      (runs_ite (BatchActs.resumed _).runs).trans <| runs_ite (BatchActs.armed _).runs

theorem writeRegister32_runs (offset : Nat) (value : Word) (s : State) :
    Runs s (writeRegister32 offset value s) := by
  unfold writeRegister32
  split
  · exact (Acts.sourcesCleared _ _).runs
  split
  · exact (Acts.enablesWritten _ _).runs
  split
  · exact runs_ite (Acts.portReset s).runs
  split
  · exact writeCommandControl_runs value s
  iterate 6
    split
    · exact (BatchActs.nextWritten _ _).runs
  exact runs_ite (writeBatchControl_runs value s)

theorem writeRegister64_runs (offset : Nat) (value : DWord) (s : State) :
    Runs s (writeRegister64 offset value s) := by
  unfold writeRegister64
  split
  · exact (BatchActs.nextWritten _ _).runs
  · exact runs_ite (BatchActs.nextWritten _ _).runs

/-- A host write to the window: the request block, then at most one register (R180). -/
theorem windowWrite_runs (offset : Nat) (bytes : List Byte) (s : State) :
    Runs s (windowWrite offset bytes s) := by
  have h : Runs s (writeRequestBytes offset bytes s) := (Acts.blockWritten s _).runs
  refine h.trans ?_
  unfold windowWrite
  dsimp only
  split
  · exact writeRegister32_runs ..
  · exact runs_ite (writeRegister64_runs ..)

/-- A next state that an event reaches: the one it started from, while cold reset is held, or the end
of a run of actions, with the interrupt message of the event behind it. -/
def EventReaches (s : State) (o : Host.Outcome State Fault Refusal) : Prop :=
  ∃ t, o = .next t ∧ (t = s ∨ s.inColdReset = false ∧ ∃ m, Runs s m ∧ t = settle s m)

theorem event_reaches {s : State} {f : State → State} (h : Runs s (f s)) :
    EventReaches s (event s f) := by
  cases hc : s.inColdReset
  · exact ⟨_, event_live hc, .inr ⟨hc, _, h, rfl⟩⟩
  · exact ⟨s, event_held hc, .inl rfl⟩

theorem Acts.reaches {s : State} {f : State → State} (h : Acts s (f s)) :
    EventReaches s (event s f) :=
  event_reaches h.runs

theorem issue_reaches (h : Header) (op : PortOp) (s : State) : EventReaches s (issue h op s) :=
  event_reaches ((placeRequest_runs h op s).trans (Acts.offered h op _).runs)

theorem unknownCommand_reaches (h : Header) (code : Byte) (s : State) :
    EventReaches s (execUnknownCommand h code s) :=
  event_reaches (f := fun s => pressGo (placeRequest h (.unknown code) s))
    ((placeRequest_runs h (.unknown code) s).trans (pressGo_runs _))

theorem overrunClear_reaches (go : Bool) (s : State) : EventReaches s (execOverrunClear go s) :=
  event_reaches ((Acts.overrunCleared s).runs.trans (runs_ite (pressGo_runs _)))

/-- Every command but the two cold-reset rows is one event. -/
theorem exec_reaches {c : Instr} (s : State) (h : c ≠ .coldReset) (k : c ≠ .coldResetEnd) :
    EventReaches s (exec c s) := by
  cases c
  case coldReset => exact absurd rfl h
  case coldResetEnd => exact absurd rfl k
  case unknownCommand header code => exact unknownCommand_reaches header code s
  case overrunClear go => exact overrunClear_reaches go s
  case registerWrite offset bytes => exact event_reaches (windowWrite_runs offset bytes s)
  case arm => exact (Acts.batch (.armed s)).reaches
  case abort => exact (Acts.batch (.aborted s)).reaches
  case pause => exact (Acts.batch (.paused s)).reaches
  case resume => exact (Acts.batch (.resumed s)).reaches
  case armRefusedClear => exact (Acts.batch (.armRefusedCleared s)).reaches
  case nextFieldWrite w => exact (Acts.batch (.nextWritten w s)).reaches
  case interruptStatusClear value => exact (Acts.sourcesCleared value s).reaches
  case interruptEnableWrite value => exact (Acts.enablesWritten value s).reaches
  case portReset => exact (Acts.portReset s).reaches
  case initialisationComplete => exact (Acts.initialised s).reaches
  case readCompletion fetch data => exact (Acts.batch (.fetchCompleted fetch data s)).reaches
  case fetchError fetch => exact (Acts.batch (.fetchFailed fetch s)).reaches
  case fetchTimeout => exact (Acts.batch (.fetchTimedOut s)).reaches
  case recordUnitGrant => exact (Acts.granted s).reaches
  case commandComplete => exact (Acts.commandCompleted s).reaches
  case batchReadingComplete => exact (Acts.readingCompleted s).reaches
  case sweepStep => exact (Acts.sweepStepped s).reaches
  case surveyStep => exact (Acts.surveyStepped s).reaches
  all_goals exact issue_reaches _ _ s

/-- Every command gives a next state: by cold reset, or by an event. -/
theorem exec_cases (c : Instr) (s : State) :
    ∃ t, exec c s = .next t ∧ ((∃ held, t = coldValues held s) ∨ t = s ∨
      s.inColdReset = false ∧ ∃ m, Runs s m ∧ t = settle s m) := by
  by_cases h : c = .coldReset
  · subst h
    exact ⟨_, rfl, .inl ⟨true, rfl⟩⟩
  by_cases k : c = .coldResetEnd
  · subst k
    show ∃ t, (if s.inColdReset then Host.Outcome.next (coldValues false s) else .next s) = .next t ∧ _
    split
    · exact ⟨_, rfl, .inl ⟨false, rfl⟩⟩
    · exact ⟨_, rfl, .inr (.inl rfl)⟩
  · obtain ⟨t, he, ht⟩ := exec_reaches s h k
    exact ⟨t, he, .inr ht⟩

/-! ## What an action leaves alone -/

@[simp] theorem coldValues_pending (held : Bool) (s : State) :
    (coldValues held s).pending = s.pending :=
  State.discardOutbound_pending s

/-- What every action leaves alone: the queue, and that cold reset is over. -/
structure SameQueue (s t : State) : Prop where
  pending : t.pending = s.pending
  inColdReset : t.inColdReset = s.inColdReset

theorem SameQueue.refl (s : State) : SameQueue s s := ⟨rfl, rfl⟩

theorem SameQueue.trans {s t w : State} (h : SameQueue s t) (k : SameQueue t w) : SameQueue s w :=
  ⟨k.pending.trans h.pending, k.inColdReset.trans h.inColdReset⟩

theorem OnlyBatch.refl (s : State) : OnlyBatch s s :=
  ⟨rfl, rfl, rfl, rfl, rfl, rfl, ⟨rfl, rfl, rfl, rfl⟩, rfl, rfl, rfl⟩

theorem OnlyBatch.trans {s t w : State} (h : OnlyBatch s t) (k : OnlyBatch t w) : OnlyBatch s w := by
  obtain ⟨h1, h2, h3, h4, h5, h6, ⟨h7, h8, h9, h10⟩, h11, h12, h13⟩ := h
  obtain ⟨k1, k2, k3, k4, k5, k6, ⟨k7, k8, k9, k10⟩, k11, k12, k13⟩ := k
  exact ⟨k1.trans h1, k2.trans h2, k3.trans h3, k4.trans h4, k5.trans h5, k6.trans h6,
    ⟨k7.trans h7, k8.trans h8, k9.trans h9, k10.trans h10⟩, k11.trans h11, k12.trans h12,
    k13.trans h13⟩

theorem OnlyBatch.sameQueue {s t : State} (h : OnlyBatch s t) : SameQueue s t :=
  let ⟨hc, _, hp⟩ := h.others
  ⟨hp, hc⟩

theorem onlyBatch_mapEngine (s : State) (f : BatchEngine → BatchEngine) :
    OnlyBatch s (s.mapEngine f) :=
  ⟨rfl, rfl, rfl, rfl, rfl, rfl, ⟨rfl, rfl, rfl, rfl⟩, rfl, rfl, rfl⟩

theorem onlyBatch_latch (s : State) (src : Source) : OnlyBatch s (s.latch src) :=
  ⟨rfl, rfl, rfl, rfl, rfl, rfl, ⟨rfl, rfl, rfl, rfl⟩, rfl, rfl, rfl⟩

theorem onlyBatch_postWrite (s : State) (address : DWord) (bytes : List Byte) :
    OnlyBatch s (s.postWrite address bytes) := by
  rw [postWrite_eq]
  exact ⟨rfl, rfl, rfl, rfl, rfl, rfl, ⟨rfl, rfl, rfl, rfl⟩, rfl, rfl, rfl⟩

theorem onlyBatch_issueFetch (s : State) : OnlyBatch s s.issueFetch := by
  unfold State.issueFetch
  split
  · exact .refl s
  · exact ⟨rfl, rfl, rfl, rfl, rfl, rfl, ⟨rfl, rfl, rfl, rfl⟩, rfl, rfl, rfl⟩

theorem onlyBatch_promote (s : State) : OnlyBatch s s.promote := by
  rw [promote_eq]
  exact ⟨rfl, rfl, rfl, rfl, rfl, rfl, ⟨rfl, rfl, rfl, rfl⟩, rfl, rfl, rfl⟩

theorem onlyBatch_endBatch (s : State) (cause : EndCause) : OnlyBatch s (s.endBatch cause) := by
  unfold State.endBatch
  split
  · exact .refl s
  · have reported := fun f => (onlyBatch_mapEngine s f).trans (onlyBatch_latch _ .batchEnd)
    dsimp only
    split
    · exact (reported _).trans (onlyBatch_promote _)
    · exact (reported _).trans (onlyBatch_mapEngine _ _)

theorem onlyBatch_processReading (s : State) (v : Verdict) : OnlyBatch s (s.processReading v) := by
  unfold State.processReading
  split
  · exact .refl s
  · have advanced := fun a b f => (onlyBatch_postWrite s a b).trans (onlyBatch_mapEngine _ f)
    dsimp only
    split
    · exact (advanced _ _ _).trans (onlyBatch_endBatch _ _)
    · split
      · exact (advanced _ _ _).trans (onlyBatch_mapEngine _ _)
      · exact (advanced _ _ _).trans (onlyBatch_issueFetch _)

/-- The engine's own actions leave the Record Unit, the Command Port and the rest alone. -/
theorem BatchActs.onlyBatch {s t : State} (h : BatchActs s t) : OnlyBatch s t := by
  cases h with
  | armRefusedCleared => exact onlyBatch_mapEngine _ _
  | nextWritten =>
    unfold writeNext
    split
    · exact .refl s
    · exact onlyBatch_mapEngine _ _
  | aborted =>
    unfold abortBatch
    split
    · exact .refl s
    · exact onlyBatch_endBatch _ _
    · split
      · exact .refl s
      · split
        · exact onlyBatch_mapEngine _ _
        · exact onlyBatch_endBatch _ _
  | paused =>
    unfold pauseBatch
    split
    · exact onlyBatch_mapEngine _ _
    · exact .refl s
  | resumed =>
    unfold resumeBatch
    split
    · exact .refl s
    · exact (onlyBatch_mapEngine _ _).trans (onlyBatch_issueFetch _)
    · exact onlyBatch_mapEngine _ _
  | armed =>
    unfold armNext
    split
    · exact onlyBatch_mapEngine _ _
    · dsimp only
      split
      · exact (onlyBatch_mapEngine _ _).trans (onlyBatch_promote _)
      · exact onlyBatch_mapEngine _ _
  | fetchCompleted fetch data =>
    unfold readCompletion
    split
    · split
      · split
        · exact onlyBatch_mapEngine _ _
        · exact onlyBatch_processReading _ _
      · exact .refl s
    · exact .refl s
  | fetchFailed =>
    unfold fetchError
    split
    · split
      · exact onlyBatch_endBatch _ _
      · exact .refl s
    · exact .refl s
  | fetchTimedOut =>
    unfold fetchTimeout
    split
    · exact onlyBatch_endBatch _ _
    · exact .refl s

/-- What the taking of a request leaves alone: Record Unit, Batch Engine, readiness, queue. -/
structure OnlyPort (s t : State) : Prop where
  unit : t.unit = s.unit
  engine : t.engine = s.engine
  readiness : t.readiness = s.readiness
  fetchSerial : t.fetchSerial = s.fetchSerial
  queue : SameQueue s t

theorem onlyPort_takeRequest (h : Header) (op : PortOp) (s : State) :
    OnlyPort s (takeRequest h op s) := by
  unfold takeRequest
  dsimp only
  split
  · exact ⟨rfl, rfl, rfl, rfl, rfl, rfl⟩
  · split
    · exact ⟨rfl, rfl, rfl, rfl, rfl, rfl⟩
    · exact ⟨rfl, rfl, rfl, rfl, rfl, rfl⟩
    · exact ⟨rfl, rfl, rfl, rfl, rfl, rfl⟩
    · split <;> exact ⟨rfl, rfl, rfl, rfl, rfl, rfl⟩

theorem onlyPort_offerRequest (h : Header) (op : PortOp) (s : State) :
    OnlyPort s (offerRequest h op s) := by
  unfold offerRequest
  split
  · exact onlyPort_takeRequest h op s
  · exact ⟨rfl, rfl, rfl, rfl, rfl, rfl⟩

theorem sameQueue_grant (s : State) : SameQueue s (grant s) := by
  unfold grant
  split
  · exact .refl s
  · dsimp only
    split <;> exact ⟨rfl, rfl⟩

theorem sameQueue_completeCommand (s : State) : SameQueue s (completeCommand s) := by
  unfold completeCommand
  split
  · dsimp only
    split <;> exact ⟨by simp, by simp⟩
  · exact .refl s

theorem sameQueue_completeReading (s : State) : SameQueue s (completeReading s) := by
  unfold completeReading
  split
  · dsimp only
    split
    · exact ⟨by simp, by simp⟩
    · refine SameQueue.trans ⟨?_, ?_⟩ (onlyBatch_processReading _ _).sameQueue <;> simp
  · exact .refl s

theorem sameQueue_finishWalk (w : Walked) (src : Source) (s : State) :
    SameQueue s (finishWalk w src s) := by
  unfold finishWalk
  dsimp only
  split <;> exact ⟨by simp, by simp⟩

/-- Every action leaves the queue and the cold-reset indication alone. -/
theorem Acts.sameQueue {s t : State} (h : Acts s t) : SameQueue s t := by
  cases h with
  | blockWritten | overrunCleared | sourcesCleared | enablesWritten => exact ⟨rfl, rfl⟩
  | offered h op => exact (onlyPort_offerRequest h op s).queue
  | portReset => exact ⟨State.discardOutbound_pending s, State.discardOutbound_inColdReset s⟩
  | batch hb => exact hb.onlyBatch.sameQueue
  | initialised =>
    unfold initialise
    split <;> exact ⟨rfl, rfl⟩
  | granted => exact sameQueue_grant s
  | commandCompleted => exact sameQueue_completeCommand s
  | readingCompleted => exact sameQueue_completeReading s
  | sweepStepped =>
    unfold sweepStep
    split
    · exact sameQueue_finishWalk _ _ s
    · exact .refl s
  | surveyStepped =>
    unfold surveyStep
    split
    · exact sameQueue_finishWalk _ _ s
    · exact .refl s

theorem Runs.sameQueue {s t : State} (h : Runs s t) : SameQueue s t := by
  induction h with
  | refl => exact .refl s
  | tail _ ha ih => exact ih.trans ha.sameQueue

/-! ## What a step keeps -/

/-- A property of the state that does not rest on the queue or on the outward traffic, holds after
every cold reset, and is kept by every action, is kept by every step. -/
structure KeptByActions (P : State → Prop) : Prop where
  queue : ∀ s rest, P s → P { s with pending := rest }
  sent : ∀ s, P s → P s.sendOldest
  settled : ∀ before s, P s → P (settle before s)
  cold : ∀ held s, P (coldValues held s)
  acts : ∀ s t, s.inColdReset = false → Acts s t → P s → P t

theorem KeptByActions.runs {P : State → Prop} (k : KeptByActions P) {s t : State}
    (hc : s.inColdReset = false) (h : Runs s t) (hs : P s) : P t := by
  induction h with
  | refl => exact hs
  | tail hr ha ih => exact k.acts _ _ ((Runs.sameQueue hr).inColdReset.trans hc) ha ih

theorem KeptByActions.step {P : State → Prop} (k : KeptByActions P) {s t : State}
    (h : step s = .next t) (hs : P s) : P t := by
  unfold Machine.step at h
  split at h
  · rename_i c rest _
    obtain ⟨t', he, ht⟩ := exec_cases c { s with pending := rest }
    rw [h] at he
    cases he
    have hq := k.queue s rest hs
    obtain ⟨held, rfl⟩ | rfl | ⟨hc, m, hm, rfl⟩ := ht
    · exact k.cold held _
    · exact hq
    · exact k.settled _ _ (k.runs hc hm hq)
  · split at h <;> cases h
    · exact hs
    · exact k.sent s hs

/-- Settles O2: every command is a cold reset or a run of actions, none of which touches the queue. -/
theorem everyCommandGivesANextState : Obligations.EveryCommandGivesANextState := by
  intro c s
  obtain ⟨t, he, ht⟩ := exec_cases c s
  refine ⟨t, he, ?_⟩
  obtain ⟨held, rfl⟩ | rfl | ⟨_, m, hm, rfl⟩ := ht
  · exact coldValues_pending held s
  · rfl
  · exact (settle_pending s m).trans (Runs.sameQueue hm).pending

end Sys2Proof.Machine
end

section
/-! What the Record Unit's work can do to records and tables, said once: the changes a request or a
reading makes to its record after catch-up, the changes work makes to the Record Unit, and the
changes an action makes to it. -/

namespace Sys2Proof.Machine

open Sys2Proof

/-! ## Work on one record -/

/-- What the work on a caught-up record `w` can leave, with the checks that let it pass. -/
inductive Worked (w : Touch) : Touch → Prop
  | read : Worked w w
  | moved (region : Fin 64) : Worked w (w.moveRegion region).bumpVersion
  | profiled (profile : Fin 32) (hk : w.unit.profiles[profile].kind = some w.line.kind) :
      Worked w (w.moveProfile profile).bumpVersion
  | aimed (aims : Points Int) (hs : w.line.state ≠ .lapsed) (hr : w.line.state ≠ .reinstating)
      (hl : w.line.state = .new → w.line.lot ≠ none) :
      Worked w
        (w.mapLine (·.loadAims w.profile.stripInterval aims)).bumpVersion.recomputeAttention
  | lotSet (lot : Fin 64) (hx : w.line.crossover = none) (hs : w.unit.lots[lot].state ≠ .free)
      (hk : w.unit.lots[lot].kind = some w.line.kind) :
      Worked w ((w.moveLotCounts lot).mapLine (·.setLot lot)).bumpVersion
  | opened (lot : Fin 64) (ha : w.line.state = .active) (hx : w.line.crossover = none)
      (hs : w.unit.lots[lot].state ≠ .free) (hk : w.unit.lots[lot].kind = some w.line.kind)
      (hl : w.line.lot ≠ some lot) :
      Worked w ((w.mapLine (·.openCrossover lot w.profile.crossoverPairs)).mapUnit
        (addIncomingUser · lot)).bumpVersion
  | cancelled (x : Crossover) (hx : w.line.crossover = some x) :
      Worked w ((w.mapLine fun r => { r with crossover := none }).mapUnit
        (dropIncomingUser · x.incoming)).bumpVersion
  | acknowledged : Worked w (w.mapLine LineRecord.acknowledged).bumpVersion.recomputeAttention
  | driftCleared (ha : w.line.state = .active) :
      Worked w (w.mapLine (·.clearDrift w.profile)).bumpVersion.recomputeAttention
  | reinstated (hs : w.line.state = .lapsed) :
      Worked w (w.mapLine fun r =>
        { r with
          state := .reinstating
          countdown := w.profile.stripInterval
          missed := 0 }).bumpVersion
  | handled (rd : Reading) (a : Attached) (h : admitReading w.unit w.line rd = .ok a) :
      Worked w (handle w rd a).touched
  | marked (mark : Bool) : Worked w (w.mapLine fun r => { r with marginal := mark })

/-! ## Work of the Record Unit -/

/-- What carrying out a request, a reading or a walker step can do to the Record Unit, with the checks
that let it pass. -/
inductive Effect (u : RecordUnit) : RecordUnit → Prop
  | stands : Effect u u
  | worked {r : LineRecord} {t : Touch} (hr : r ∈ u.records) (h : Worked (touch u r) t) :
      Effect u t.commit
  | created {slot : Nat} {u' : RecordUnit} {site lineNo : Nat} (region : Fin 64)
      {kind : ProcessKind} {profile : Fin 32} {lot : Option (Fin 64)}
      (ht : u.takeSlot = some (slot, u')) (hn : u.lookup site lineNo = none)
      (hp : u.profiles[profile].kind = some kind)
      (hl : ∀ i, lot = some i → u.lots[i].state ≠ .free ∧ u.lots[i].kind = some kind) :
      Effect u (createRecord u'
        (newRecord slot site lineNo region kind profile u.businessDay lot))
  | retired {r : LineRecord} (hr : r ∈ u.records) :
      Effect u (retireRecord (touch u r).unit (touch u r).line)
  | scanned {visited : List LineRecord} (hv : visited.Sublist u.records) :
      Effect u (walked u visited)
  | profileWritten (i : Fin 32) (a : WriteProfileArgs)
      (hr : kindOfCode a.kind.toNat ≠ none → profileInRange a = true)
      (hu : 0 < u.profiles[i].useCount → kindOfCode a.kind.toNat = u.profiles[i].kind) :
      Effect u (u.modifyProfile i fun _ =>
        writtenProfile (kindOfCode a.kind.toNat) a u.profiles[i].useCount)
  | profilesFrozen : Effect u { u with freeze := true }
  | lotAdded (i : Fin 64) (code : Word) (kind : ProcessKind) (offsets : Points Int)
      (hf : u.lots[i].state = .free) :
      Effect u (u.modifyLot i fun _ =>
        { state := .opened, code := code, kind := some kind, offsets := offsets
          currentUsers := 0, incomingUsers := 0 })
  | lotWithdrawn (i : Fin 64) (hs : u.lots[i].state ≠ .free) :
      Effect u (u.modifyLot i fun l => { l with state := .withdrawn })
  | lotRemoved (i : Fin 64) (hc : u.lots[i].currentUsers = 0) (hi : u.lots[i].incomingUsers = 0) :
      Effect u (u.modifyLot i fun _ => Lot.vacant)
  | holdSet (i : Fin 64) (mode : HoldMode) :
      Effect u (u.modifyRegion i fun g => { g with hold := mode })
  | dayClosed (day : Half) (hd : u.businessDay < day.toNat) (hw : day.toNat ≤ u.businessDay + 7)
      (hs : u.sweep.running = false) : Effect u (closeDay u day.toNat)
  | surveyStarted (margin : Nat) (hs : u.survey.state ≠ .running) :
      Effect u { u with survey := ⟨.running, margin, 1, 0, 0, 0⟩ }
  | surveyStopped (hs : u.survey.state = .running) :
      Effect u
        { u with
          survey := { u.survey with state := .stopped, pointer := 0 }
          arbiter := { u.arbiter with surveyCount := 0 } }

/-! ## Which request does what -/

theorem mem_of_lookup {u : RecordUnit} {site lineNo : Nat} {r : LineRecord}
    (h : u.lookup site lineNo = some r) : r ∈ u.records :=
  (recordAt_spec (lookup_spec h).1).1

/-- A request on a named record leaves all standing, or its record caught up, or does what its own
body does to the caught-up record. -/
theorem onLine_effect {u : RecordUnit} {h : Header} {site : Word} {line : Byte}
    {outOfRange change : Bool} {missing : List Field} {report : Touch → List Field}
    {body : Touch → Ending} (ha : ∀ w t, body w = .accepted t → Worked w t)
    (hr : ∀ w t v, body w = .retired t v → v = retireRecord w.unit w.line) :
    Effect u (onLine u h site line outOfRange change missing report body).unit := by
  unfold onLine
  split
  · exact .stands
  split
  · exact .stands
  rename_i r hl
  have hm := mem_of_lookup hl
  dsimp only
  split
  · exact .worked hm .read
  split
  · exact .worked hm .read
  · rename_i t hb
    exact .worked hm (ha _ _ hb)
  · rename_i t v hb
    rw [hr _ _ _ hb]
    exact .retired hm

/-- A body that retires no record. -/
theorem onLine_worked {u : RecordUnit} {h : Header} {site : Word} {line : Byte}
    {outOfRange change : Bool} {missing : List Field} {report : Touch → List Field}
    {body : Touch → Ending}
    (hb : ∀ w, (∃ status, body w = .refused status) ∨ ∃ t, body w = .accepted t ∧ Worked w t) :
    Effect u (onLine u h site line outOfRange change missing report body).unit := by
  refine onLine_effect (fun w t ht => ?_) (fun w t v hv => ?_)
  · obtain ⟨status, hs⟩ | ⟨t', ht', hw⟩ := hb w
    · rw [hs] at ht; cases ht
    · rw [ht'] at ht; cases ht; exact hw
  · obtain ⟨status, hs⟩ | ⟨t', ht', _⟩ := hb w
    · rw [hs] at hv; cases hv
    · rw [ht'] at hv; cases hv

/-- The lot that CREATE_LINE accepts is not FREE and of the line's kind (R19). -/
theorem createLot_spec {u : RecordUnit} {kind : ProcessKind} {code : Word} {lot : Option (Fin 64)}
    (h : createLot u kind code = .ok lot) :
    ∀ i, lot = some i → u.lots[i].state ≠ .free ∧ u.lots[i].kind = some kind := by
  rintro i rfl
  unfold createLot at h
  split at h
  · cases h
  split at h
  · cases h
  rename_i j hj
  split at h
  · cases h
  split at h
  · cases h
  · cases h
    rename_i hk
    exact ⟨(findLot_spec hj).1, not_not.mp hk⟩

theorem carryCreateLine_effect (u : RecordUnit) (a : CreateArgs) :
    Effect u (carryCreateLine u a).unit := by
  unfold carryCreateLine
  dsimp only
  split
  · exact .stands
  split
  case isFalse => exact .stands
  split
  · exact .stands
  split
  case isFalse => exact .stands
  split
  · exact .stands
  rename_i hn
  split
  · exact .stands
  rename_i ht
  split
  · exact .stands
  split
  · exact .stands
  rename_i hk
  split
  · exact .stands
  · rename_i hl
    exact .created _ ht (by simpa using hn) (not_not.mp hk) (createLot_spec hl)

theorem carryMoveLine_effect (u : RecordUnit) (h : Header) (a : MoveArgs) :
    Effect u (carryMoveLine u h a).unit := by
  unfold carryMoveLine
  split
  · exact onLine_worked fun w => .inr ⟨_, rfl, .moved _⟩
  · exact .stands

theorem carrySetLineProfile_effect (u : RecordUnit) (h : Header) (a : LineProfileArgs) :
    Effect u (carrySetLineProfile u h a).unit := by
  unfold carrySetLineProfile
  split
  · refine onLine_worked fun w => ?_
    split
    · exact .inl ⟨_, rfl⟩
    split
    · exact .inl ⟨_, rfl⟩
    · rename_i hk
      exact .inr ⟨_, rfl, .profiled _ (not_not.mp hk)⟩
  · exact .stands

theorem carrySetAims_effect (u : RecordUnit) (h : Header) (a : AimsArgs) :
    Effect u (carrySetAims u h a).unit := by
  refine onLine_worked fun w => ?_
  split
  · exact .inl ⟨_, rfl⟩
  split
  · exact .inl ⟨_, rfl⟩
  rename_i hs
  split
  · exact .inl ⟨_, rfl⟩
  · rename_i hl
    exact .inr ⟨_, rfl, .aimed _ (fun e => hs (.inl e)) (fun e => hs (.inr e))
      fun e k => hl ⟨e, k⟩⟩

theorem carrySetLineLot_effect (u : RecordUnit) (h : Header) (a : LineLotArgs) :
    Effect u (carrySetLineLot u h a).unit := by
  refine onLine_worked fun w => ?_
  split
  · exact .inl ⟨_, rfl⟩
  rename_i hx
  split
  · exact .inl ⟨_, rfl⟩
  rename_i lot hf
  split
  · exact .inl ⟨_, rfl⟩
  split
  · exact .inl ⟨_, rfl⟩
  · rename_i hk
    exact .inr ⟨_, rfl, .lotSet lot (by simpa using hx) (findLot_spec hf).1 (not_not.mp hk)⟩

theorem carryStartCrossover_effect (u : RecordUnit) (h : Header) (a : LineLotArgs) :
    Effect u (carryStartCrossover u h a).unit := by
  refine onLine_worked fun w => ?_
  split
  · exact .inl ⟨_, rfl⟩
  rename_i ha
  split
  · exact .inl ⟨_, rfl⟩
  rename_i hx
  split
  · exact .inl ⟨_, rfl⟩
  rename_i lot hf
  split
  · exact .inl ⟨_, rfl⟩
  split
  · exact .inl ⟨_, rfl⟩
  rename_i hk
  split
  · exact .inl ⟨_, rfl⟩
  · rename_i hl
    exact .inr ⟨_, rfl, .opened lot (not_not.mp ha) (by simpa using hx) (findLot_spec hf).1
      (not_not.mp hk) hl⟩

theorem carryCancelCrossover_effect (u : RecordUnit) (h : Header) (a : KeyArgs) :
    Effect u (carryCancelCrossover u h a).unit := by
  refine onLine_worked fun w => ?_
  split
  · exact .inl ⟨_, rfl⟩
  · rename_i x hx
    exact .inr ⟨_, rfl, .cancelled x hx⟩

theorem carryClearDrift_effect (u : RecordUnit) (h : Header) (a : KeyArgs) :
    Effect u (carryClearDrift u h a).unit := by
  refine onLine_worked fun w => ?_
  split
  · exact .inl ⟨_, rfl⟩
  · rename_i ha
    exact .inr ⟨_, rfl, .driftCleared (not_not.mp ha)⟩

theorem carryReinstate_effect (u : RecordUnit) (h : Header) (a : KeyArgs) :
    Effect u (carryReinstate u h a).unit := by
  refine onLine_worked fun w => ?_
  split
  · exact .inl ⟨_, rfl⟩
  · rename_i hs
    exact .inr ⟨_, rfl, .reinstated (not_not.mp hs)⟩

/-- A reading, by either route, leaves all standing, or its record caught up, or handled. -/
theorem carryReading_effect (u : RecordUnit) (raw : RawReading) :
    Effect u (carryReading u raw).unit := by
  unfold carryReading
  dsimp only
  split
  · exact .stands
  rename_i r hl
  have hm := mem_of_lookup hl
  unfold admitAndHandle
  split
  · exact .worked hm .read
  · rename_i a ha
    exact .worked hm (.handled _ a ha)

theorem carryWriteProfile_effect (u : RecordUnit) (a : WriteProfileArgs) :
    Effect u (carryWriteProfile u a).unit := by
  unfold carryWriteProfile
  dsimp only
  split
  case isFalse => exact .stands
  split
  · exact .stands
  split
  · exact .stands
  rename_i hr
  split
  · exact .stands
  split
  · exact .stands
  · rename_i hu
    refine .profileWritten _ a (fun hk => ?_) (fun hc => ?_)
    · cases hp : profileInRange a
      · exact absurd (by simp [hp, Option.isSome_iff_ne_none, hk]) hr
      · rfl
    · exact not_not.mp fun hk => hu ⟨hc, hk⟩

theorem carryAddLot_effect (u : RecordUnit) (a : AddLotArgs) :
    Effect u (carryAddLot u a).unit := by
  unfold carryAddLot
  split
  · exact .stands
  split
  · exact .stands
  split
  · exact .stands
  split
  · exact .stands
  · rename_i i hi
    exact .lotAdded i _ _ _ (firstFreeLot_free hi)

theorem carryWithdrawLot_effect (u : RecordUnit) (code : Word) :
    Effect u (carryWithdrawLot u code).unit := by
  unfold carryWithdrawLot
  split
  · exact .stands
  split
  · exact .stands
  · rename_i i hi
    exact .lotWithdrawn i (findLot_spec hi).1

theorem carryRemoveLot_effect (u : RecordUnit) (code : Word) :
    Effect u (carryRemoveLot u code).unit := by
  unfold carryRemoveLot
  split
  · exact .stands
  split
  · exact .stands
  split
  · exact .stands
  · rename_i i _ hu
    exact .lotRemoved i (by omega) (by omega)

theorem carrySetRegionHold_effect (u : RecordUnit) (a : RegionHoldArgs) :
    Effect u (carrySetRegionHold u a).unit := by
  unfold carrySetRegionHold
  split
  case isFalse => exact .stands
  split
  · exact .stands
  · exact .holdSet _ _

theorem carryCloseDay_effect (u : RecordUnit) (day : Half) :
    Effect u (carryCloseDay u day).unit := by
  unfold carryCloseDay
  split
  · exact .stands
  rename_i hd
  split
  · exact .stands
  · rename_i hs
    exact .dayClosed day (by omega) (by omega) (by simpa using hs)

/-- The Record Unit after a scan: some of the records, from the first on, caught up in turn. -/
theorem scanWalk_unit (a : ScanArgs) (l : List LineRecord) (acc : Scan) :
    ∃ visited, visited.Sublist l ∧ (scanWalk a l acc).unit = walked acc.unit visited := by
  induction l generalizing acc with
  | nil => exact ⟨[], .slnil, rfl⟩
  | cons r rest ih =>
    rw [scanWalk]
    dsimp only
    generalize (if scanMatches a (touch acc.unit r).line then
      acc.found ++ [(touch acc.unit r).line] else acc.found) = found
    split
    · exact ⟨[r], by simp, rfl⟩
    · obtain ⟨visited, hs, hu⟩ := ih
        ⟨(touch acc.unit r).commit, acc.attention || (touch acc.unit r).attention, found,
          acc.visited + 1, none⟩
      exact ⟨r :: visited, hs.cons_cons r, hu⟩

theorem carryScanLines_effect (u : RecordUnit) (a : ScanArgs) :
    Effect u (carryScanLines u a).unit := by
  unfold carryScanLines
  split
  · exact .stands
  · dsimp only
    obtain ⟨visited, hs, hu⟩ := scanWalk_unit a
      (u.records.filter fun r => decide (a.start.toNat ≤ r.slot)) ⟨u, false, [], 0, none⟩
    rw [hu]
    exact .scanned (hs.trans List.filter_sublist)

/-- A request that reads a table leaves all standing. -/
theorem effect_of_eq {u v : RecordUnit} (h : v = u) : Effect u v := h ▸ .stands

theorem carryStartSurvey_effect (u : RecordUnit) (margin : Byte) :
    Effect u (carryStartSurvey u margin).unit := by
  unfold carryStartSurvey
  split
  · exact .stands
  split
  · exact .stands
  · rename_i hs
    exact .surveyStarted _ hs

theorem carryStopSurvey_effect (u : RecordUnit) : Effect u (carryStopSurvey u).unit := by
  unfold carryStopSurvey
  split
  · rename_i hs
    exact .surveyStopped hs
  · exact .stands

/-- What carrying out a command request can do to the Record Unit. -/
theorem carryOut_effect (u : RecordUnit) (req : UnitRequest) : Effect u (carryOut u req).unit := by
  unfold carryOut
  split
  · exact carryCreateLine_effect u _
  · exact onLine_worked fun w => .inr ⟨w, rfl, .read⟩
  · exact onLine_effect (fun w t h => by cases h) (fun w t v h => by cases h; rfl)
  · exact carryMoveLine_effect u _ _
  · exact carrySetLineProfile_effect u _ _
  · exact carrySetAims_effect u _ _
  · exact carrySetLineLot_effect u _ _
  · exact carryStartCrossover_effect u _ _
  · exact carryCancelCrossover_effect u _ _
  · exact onLine_worked fun w => .inr ⟨_, rfl, .acknowledged⟩
  · exact carryClearDrift_effect u _ _
  · exact carryReinstate_effect u _ _
  · exact carryReading_effect u _
  · exact carryWriteProfile_effect u _
  · unfold carryReadProfile
    split <;> exact .stands
  · exact .profilesFrozen
  · exact carryAddLot_effect u _
  · unfold carryReadLot
    repeat' split
    all_goals exact .stands
  · exact carryWithdrawLot_effect u _
  · exact carryRemoveLot_effect u _
  · exact carrySetRegionHold_effect u _
  · unfold carryReadRegion
    split <;> exact .stands
  · exact carryCloseDay_effect u _
  · exact .stands
  · exact carryScanLines_effect u _
  · exact carryStartSurvey_effect u _
  · exact carryStopSurvey_effect u

/-! ## What an action does to the Record Unit -/

/-- The same records, key index, ring and tables: two Record Units that may differ in the day, the
freeze, the walkers, the arbiter and the request under way. -/
structure SameTables (u v : RecordUnit) : Prop where
  records : v.records = u.records
  index : v.index = u.index
  ring : v.ring = u.ring
  ringHead : v.ringHead = u.ringHead
  ringTail : v.ringTail = u.ringTail
  profiles : v.profiles = u.profiles
  lots : v.lots = u.lots
  regions : v.regions = u.regions

theorem SameTables.refl (u : RecordUnit) : SameTables u u := ⟨rfl, rfl, rfl, rfl, rfl, rfl, rfl, rfl⟩

/-- What an action does to the records and tables: nothing, or the work of the Record Unit, or the
end of initialisation. -/
inductive UnitMove (s t : State) : Prop
  | worked (v : RecordUnit) (he : Effect s.unit v) (hv : SameTables v t.unit)
      (hr : t.readiness = s.readiness)
  | initialised (hs : s.readiness = .initialising)
      (hu : t.unit =
        { s.unit with
          records := []
          ring := filledRing (s.unit.ring.getD 4095 0)
          ringHead := 0
          ringTail := 4095 })
      (hr : t.readiness = .ready)

theorem UnitMove.of_unit {s t : State} (hu : t.unit = s.unit) (hr : t.readiness = s.readiness) :
    UnitMove s t :=
  .worked s.unit .stands (hu ▸ .refl _) hr

/-- A Day-Close Sweep step catches a record up, or passes the last slot (R112). -/
theorem sweepWalk_effect (u : RecordUnit) :
    ∃ v, Effect u v ∧ SameTables v (sweepWalk u).unit := by
  unfold sweepWalk
  split
  · exact ⟨u, .stands, rfl, rfl, rfl, rfl, rfl, rfl, rfl, rfl⟩
  · rename_i r hr
    refine ⟨_, .worked (nextLive_spec hr).1 .read, ?_⟩
    dsimp only
    split <;> exact ⟨rfl, rfl, rfl, rfl, rfl, rfl, rfl, rfl⟩

/-- A Margin Survey step catches a record up and marks it, or passes the last slot (R144). -/
theorem surveyWalk_effect (u : RecordUnit) :
    ∃ v, Effect u v ∧ SameTables v (surveyWalk u).unit := by
  unfold surveyWalk
  split
  · exact ⟨u, .stands, rfl, rfl, rfl, rfl, rfl, rfl, rfl, rfl⟩
  · rename_i r hr
    refine ⟨_, .worked (nextLive_spec hr).1 (.marked
      (marginalTest (touch u r).profile u.survey.margin (touch u r).line)), ?_⟩
    dsimp only
    split <;> exact ⟨rfl, rfl, rfl, rfl, rfl, rfl, rfl, rfl⟩

/-- What a walker step does to the records and tables, whatever its walk gives. -/
theorem finishWalk_move {w : Walked} {src : Source} {s : State}
    (h : ∃ v, Effect s.unit v ∧ SameTables v w.unit) : UnitMove s (finishWalk w src s) := by
  obtain ⟨v, he, hv⟩ := h
  have hu : (finishWalk w src s).unit = { w.unit with inProgress := none } := by
    unfold finishWalk
    cases w.ended <;> simp
  have hr : (finishWalk w src s).readiness = s.readiness := by
    unfold finishWalk
    cases w.ended <;> simp
  refine .worked v he ?_ hr
  rw [hu]
  exact ⟨hv.records, hv.index, hv.ring, hv.ringHead, hv.ringTail, hv.profiles, hv.lots, hv.regions⟩

theorem grant_sameTables (s : State) : SameTables s.unit (grant s).unit := by
  unfold grant
  split
  · exact .refl _
  · dsimp only
    split <;> exact ⟨rfl, rfl, rfl, rfl, rfl, rfl, rfl, rfl⟩

theorem grant_readiness (s : State) : (grant s).readiness = s.readiness := by
  unfold grant
  split
  · rfl
  · dsimp only
    split <;> rfl

theorem completeCommand_move (s : State) : UnitMove s (completeCommand s) := by
  unfold completeCommand
  split
  · rename_i req discarded _
    refine .worked _ (carryOut_effect s.unit req) ?_ ?_
    all_goals dsimp only
    · split <;> simp only [respond_unit, State.latchAttention_unit] <;>
        exact ⟨rfl, rfl, rfl, rfl, rfl, rfl, rfl, rfl⟩
    · split <;> simp
  · exact .of_unit rfl rfl

theorem completeReading_move (s : State) : UnitMove s (completeReading s) := by
  unfold completeReading
  split
  · rename_i data discarded _
    have hb := fun t => onlyBatch_processReading t (carryReading s.unit data).verdict
    refine .worked _ (carryReading_effect s.unit data) ?_ ?_
    all_goals dsimp only
    · split <;> simp only [(hb _).unit, State.latchAttention_unit] <;>
        exact ⟨rfl, rfl, rfl, rfl, rfl, rfl, rfl, rfl⟩
    · split <;> simp [(hb _).readiness]
  · exact .of_unit rfl rfl

/-- What an action does to the records and tables. -/
theorem Acts.unitMove {s t : State} (h : Acts s t) : UnitMove s t := by
  cases h with
  | blockWritten | overrunCleared | sourcesCleared | enablesWritten => exact .of_unit rfl rfl
  | offered h op =>
    have hp := onlyPort_offerRequest h op s
    exact .of_unit hp.unit hp.readiness
  | portReset =>
    refine .worked s.unit .stands ?_ (State.discardOutbound_readiness s)
    unfold Machine.portReset
    simp only [State.discardOutbound_unit]
    exact ⟨rfl, rfl, rfl, rfl, rfl, rfl, rfl, rfl⟩
  | batch hb => exact .of_unit hb.onlyBatch.unit hb.onlyBatch.readiness
  | initialised =>
    unfold initialise
    split
    · exact .of_unit rfl rfl
    · refine .initialised ?_ rfl rfl
      cases hr : s.readiness
      · rfl
      · contradiction
  | granted => exact .worked s.unit .stands (grant_sameTables s) (grant_readiness s)
  | commandCompleted => exact completeCommand_move s
  | readingCompleted => exact completeReading_move s
  | sweepStepped =>
    unfold sweepStep
    split
    · exact finishWalk_move (sweepWalk_effect s.unit)
    · exact .of_unit rfl rfl
  | surveyStepped =>
    unfold surveyStep
    split
    · exact finishWalk_move (surveyWalk_effect s.unit)
    · exact .of_unit rfl rfl

end Sys2Proof.Machine
end

section
/-! Each line record by itself: every work on a record that meets `LineInv` leaves one that does. -/

namespace Sys2Proof.Machine

open Sys2Proof

/-! ## Statistics of a record -/

/-- Every point in its bounds, and the positions that are no plot point of the kind untouched. -/
structure PointsOk (kind : ProcessKind) (stats : Points PointStats) : Prop where
  points_ok : ∀ i : Fin 12, PointInv stats[i]
  spare_points : ∀ i : Fin 12, isPoint kind i = false → stats[i] = PointStats.start

@[simp] theorem startStats_getElem (i : Fin 12) : startStats[i] = PointStats.start := by
  simp [startStats]

theorem pointInv_start : PointInv PointStats.start := by
  simp [PointInv, PointStats.start, Flags.none]

theorem pointsOk_start (kind : ProcessKind) : PointsOk kind startStats :=
  ⟨fun i => by rw [startStats_getElem]; exact pointInv_start, fun i _ => startStats_getElem i⟩

/-- A change of the plot points that keeps each in its bounds. -/
theorem PointsOk.mapStats {kind : ProcessKind} {stats : Points PointStats}
    (h : PointsOk kind stats) {f : Fin 12 → PointStats → PointStats}
    (hf : ∀ i p, PointInv p → PointInv (f i p)) : PointsOk kind (mapStats kind f stats) := by
  unfold Machine.mapStats
  constructor
  · intro i
    rw [build12_getElem]
    split
    · exact hf i _ (h.points_ok i)
    · exact h.points_ok i
  · intro i hi
    rw [build12_getElem, if_neg (by simp [hi])]
    exact h.spare_points i hi

theorem boundCusum_le (v : Int) : boundCusum v ≤ 32767 := Nat.min_le_right _ _

/-- The run count stays in −15 to 15 (R75). -/
theorem nextRun_bounds {d run : Int} (hl : -15 ≤ run) (hu : run ≤ 15) :
    -15 ≤ nextRun d run ∧ nextRun d run ≤ 15 := by
  unfold nextRun
  repeat' split
  all_goals omega

/-- SHIFT and EXCURSION never stand together (R76). -/
theorem not_shift_and_excursion (l : Limits) (d : Int) :
    ¬(isShift l d = true ∧ isExcursion l d = true) := by
  simp only [isShift, isExcursion, Bool.and_eq_true, decide_eq_true_eq]
  omega

theorem pointInv_gradePoint (l : Limits) (runLimit : Nat) (aim corrected : Int) {p : PointStats}
    (h : PointInv p) : PointInv (gradePoint l runLimit aim corrected p) := by
  obtain ⟨_, _, hl, hu, _, _⟩ := h
  obtain ⟨hl', hu'⟩ := nextRun_bounds (d := corrected - aim) hl hu
  exact ⟨boundCusum_le _, boundCusum_le _, hl', hu', not_shift_and_excursion l _, nofun⟩

theorem pointInv_clearPoint (l : Limits) {p : PointStats} (_ : PointInv p) :
    PointInv (clearPoint l p) := by
  refine ⟨by simp [clearPoint], by simp [clearPoint], by simp [clearPoint], by simp [clearPoint],
    ?_, ?_⟩
  · cases hd : p.lastDev with
    | none => simp [clearPoint, hd]
    | some d => simpa [clearPoint, hd] using not_shift_and_excursion l d
  · intro hn
    have hd : p.lastDev = none := hn
    simp [clearPoint, PointStats.start, Flags.none, hd]

/-! ## A record but for its attention bit -/

/-- What `LineInv` says of the parts a record holds, whatever its statistics. -/
structure LineParts (r : LineRecord) : Prop where
  parts : StateParts r
  count_bound : r.readingCount ≤ 65535
  incoming_other : ∀ x, r.crossover = some x → r.lot ≠ some x.incoming
  snapshot_ok : ∀ n, r.snapshot = some n →
    r.lot = some n.lot ∧ n.level = statsLevel n.stats ∧ PointsOk r.kind n.stats

/-- What `LineInv` says of a record, but for the attention bit: it holds between a change and the
recomputation of the bit that follows it. -/
structure LineCore (r : LineRecord) : Prop where
  parts : LineParts r
  points : PointsOk r.kind r.stats
  level_derived : r.level = statsLevel r.stats
  ack_below : r.ackLevel.code ≤ r.level.code

theorem LineInv.core {r : LineRecord} (h : LineInv r) : LineCore r where
  parts := ⟨h.parts, h.count_bound, h.incoming_other, fun n hn =>
    let ⟨hl, hd, hp, hs⟩ := h.snapshot_ok n hn
    ⟨hl, hd, hp, hs⟩⟩
  points := ⟨h.points_ok, h.spare_points⟩
  level_derived := h.level_derived
  ack_below := h.ack_below

theorem LineCore.inv {r : LineRecord} (h : LineCore r) (ha : r.attention = r.wantsAttention) :
    LineInv r where
  parts := h.parts.parts
  level_derived := h.level_derived
  ack_below := h.ack_below
  attention_condition := ha
  points_ok := h.points.points_ok
  spare_points := h.points.spare_points
  count_bound := h.parts.count_bound
  incoming_other := h.parts.incoming_other
  snapshot_ok := fun n hn =>
    let ⟨hl, hd, hp⟩ := h.parts.snapshot_ok n hn
    ⟨hl, hd, hp.points_ok, hp.spare_points⟩

/-- The record after its attention bit was recomputed (R81, R133). -/
theorem recomputeAttention_line (t : Touch) :
    t.recomputeAttention.line = { t.line with attention := t.line.wantsAttention } := by
  unfold Touch.recomputeAttention
  split
  · rename_i h
    rw [h]
  split
  · rename_i h
    simp only [h]
  · rename_i h
    simp only [Bool.not_eq_true] at h
    simp only [h]

theorem recomputeAttention_lineInv {t : Touch} (h : LineCore t.line) :
    LineInv t.recomputeAttention.line := by
  rw [recomputeAttention_line]
  exact LineCore.inv ⟨⟨h.parts.parts, h.parts.count_bound, h.parts.incoming_other,
    h.parts.snapshot_ok⟩, h.points, h.level_derived, h.ack_below⟩ rfl

theorem min_code_le (a b : Level) : (a.min b).code ≤ b.code := by
  unfold Level.min
  split <;> omega

/-- A record whose parts and points are in order, with the level derived from the flags and the
acknowledged level brought down to it (R80, R81). -/
theorem settleLevel_core {r : LineRecord} (h : LineParts r) (hp : PointsOk r.kind r.stats) :
    LineCore r.settleLevel where
  parts := ⟨h.parts, h.count_bound, h.incoming_other, h.snapshot_ok⟩
  points := hp
  level_derived := rfl
  ack_below := min_code_le _ _

/-! ## The parts of each state (R92) -/

theorem stateParts_new {r : LineRecord} (hs : r.state = .new) :
    StateParts r ↔ r.aims = none ∧ r.baseline = none ∧ r.crossover = none ∧ r.snapshot = none ∧
      r.countdown = 0 := by
  simp only [StateParts, hs]

theorem stateParts_baseline {r : LineRecord} (hs : r.state = .baseline) :
    StateParts r ↔ r.aims = none ∧ r.baseline.isSome = true ∧ r.lot.isSome = true ∧
      r.crossover = none ∧ r.snapshot = none ∧ r.countdown = 0 := by
  simp only [StateParts, hs]

theorem stateParts_active {r : LineRecord} (hs : r.state = .active) :
    StateParts r ↔ r.aims.isSome = true ∧ r.baseline = none ∧ r.lot.isSome = true ∧
      (r.crossover.isSome = true → r.snapshot = none) := by
  simp only [StateParts, hs]

theorem stateParts_lapsed {r : LineRecord} (hs : r.state = .lapsed) :
    StateParts r ↔ r.aims.isSome = true ∧ r.baseline = none ∧ r.lot.isSome = true ∧
      r.crossover = none ∧ r.snapshot = none ∧ r.countdown = 0 := by
  simp only [StateParts, hs]

theorem stateParts_reinstating {r : LineRecord} (hs : r.state = .reinstating) :
    StateParts r ↔ r.aims.isSome = true ∧ r.baseline = none ∧ r.lot.isSome = true ∧
      r.crossover = none ∧ r.snapshot = none := by
  simp only [StateParts, hs]

/-- A record that counts days has aims and a lot, and no baseline part. -/
theorem StateParts.counting {r : LineRecord} (h : StateParts r)
    (hs : r.state = .active ∨ r.state = .reinstating) :
    r.aims.isSome = true ∧ r.baseline = none ∧ r.lot.isSome = true := by
  obtain hs | hs := hs
  · obtain ⟨ha, hb, hl, _⟩ := (stateParts_active hs).1 h
    exact ⟨ha, hb, hl⟩
  · obtain ⟨ha, hb, hl, _⟩ := (stateParts_reinstating hs).1 h
    exact ⟨ha, hb, hl⟩

/-- Only an ACTIVE record holds a crossover part, and then no snapshot (R63, R92, R116). -/
theorem StateParts.crossing {r : LineRecord} {x : Crossover} (h : StateParts r)
    (hx : r.crossover = some x) : r.state = .active ∧ r.snapshot = none := by
  unfold StateParts at h
  split at h
  case h_3 hs => exact ⟨hs, h.2.2.2 (by simp [hx])⟩
  all_goals simp_all

/-- Only an ACTIVE record holds a snapshot (R63, R92). -/
theorem StateParts.snapshot_active {r : LineRecord} {n : Snapshot} (h : StateParts r)
    (hn : r.snapshot = some n) : r.state = .active := by
  unfold StateParts at h
  split at h
  case h_3 hs => exact hs
  all_goals simp_all

/-! ## Day steps (R101 to R105) -/

theorem LineInv.dropDayParts {r : LineRecord} (h : LineInv r) : LineInv r.dropDayParts := by
  refine LineCore.inv ⟨⟨?_, h.count_bound, ?_, nofun⟩, h.core.points, h.level_derived,
    h.ack_below⟩ h.attention_condition
  · have hp := h.parts
    unfold StateParts at hp ⊢
    simp only [LineRecord.dropDayParts]
    split at hp <;> simp_all
  · intro x hx
    simp only [LineRecord.dropDayParts, Option.map_eq_some_iff] at hx
    obtain ⟨y, hy, rfl⟩ := hx
    exact h.incoming_other y hy

/-- Entry into LAPSED (R105). -/
theorem LineInv.lapse {t : Touch} (h : LineInv t.line)
    (hs : t.line.state = .active ∨ t.line.state = .reinstating) : LineInv t.lapse.line := by
  obtain ⟨ha, hb, hl⟩ := h.parts.counting hs
  unfold Touch.lapse
  cases t.line.crossover <;>
    exact recomputeAttention_lineInv
      ⟨⟨Iff.mpr (stateParts_lapsed rfl) ⟨ha, hb, hl, rfl, rfl, rfl⟩, h.count_bound, nofun, nofun⟩,
        h.core.points, h.level_derived, h.ack_below⟩

/-- The countdown of a record that counts days is free of its other parts. -/
theorem LineInv.setCountdown {r : LineRecord} (h : LineInv r)
    (hs : r.state = .active ∨ r.state = .reinstating) (countdown missed : Nat) :
    LineInv { r with countdown := countdown, missed := missed } := by
  refine LineCore.inv ⟨⟨?_, h.count_bound, h.incoming_other, h.core.parts.snapshot_ok⟩,
    h.core.points, h.level_derived, h.ack_below⟩ h.attention_condition
  obtain hs | hs := hs
  · exact Iff.mpr (stateParts_active hs) ((stateParts_active hs).1 h.parts)
  · exact Iff.mpr (stateParts_reinstating hs) ((stateParts_reinstating hs).1 h.parts)

theorem counting_iff (r : LineRecord) :
    r.counting = true ↔ r.state = .active ∨ r.state = .reinstating := by
  simp [LineRecord.counting]

theorem LineInv.stepRun {t : Touch} (h : LineInv t.line)
    (hs : t.line.state = .active ∨ t.line.state = .reinstating) : LineInv t.stepRun.line := by
  unfold Touch.stepRun
  dsimp only
  split
  · split
    · exact LineInv.lapse (h.setCountdown hs _ _) hs
    · exact h.setCountdown hs _ _
  · exact h.setCountdown hs _ _

theorem LineInv.stepHoldAtDue {t : Touch} (h : LineInv t.line)
    (hs : t.line.state = .active ∨ t.line.state = .reinstating) :
    LineInv t.stepHoldAtDue.line :=
  h.setCountdown hs _ _

/-- The closed-through day is free of the other fields. -/
theorem LineInv.setClosedDay {r : LineRecord} (h : LineInv r) (day : Nat) :
    LineInv { r with closedDay := day } :=
  ⟨h.parts, h.level_derived, h.ack_below, h.attention_condition, h.points_ok, h.spare_points,
    h.count_bound, h.incoming_other, h.snapshot_ok⟩

theorem LineInv.dayStep {t : Touch} (h : LineInv t.line) : LineInv t.dayStep.line := by
  unfold Touch.dayStep
  have hd := h.dropDayParts
  dsimp only
  split
  · rename_i hc
    have hs := (counting_iff _).1 hc
    split
    · exact (LineInv.stepRun hd hs).setClosedDay _
    · exact (LineInv.stepHoldAtDue hd hs).setClosedDay _
    · exact hd.setClosedDay _
  · exact hd.setClosedDay _

theorem LineInv.daySteps (n : Nat) {t : Touch} (h : LineInv t.line) :
    LineInv (Touch.daySteps n t).line := by
  induction n generalizing t with
  | zero => exact h
  | succ n ih => exact ih h.dayStep

/-- Catch-up keeps a record in order (R99). -/
theorem LineInv.touched {r : LineRecord} (h : LineInv r) (u : RecordUnit) :
    LineInv (touch u r).line :=
  LineInv.daySteps (t := ⟨r, u, false⟩) _ h

/-! ## Readings (R54 to R63, R119 to R125) -/

/-- What the admission of a reading has checked (R49 to R52). -/
structure Admitted (u : RecordUnit) (r : LineRecord) (rd : Reading) (a : Attached) : Prop where
  found : u.findLot rd.lotCode = some a.lot
  day_reached : rd.day ≤ u.businessDay
  day_recent : u.businessDay ≤ rd.day + 7
  not_lapsed : r.state ≠ .lapsed
  incoming_iff : a.incoming = true ↔ r.lot ≠ some a.lot
  attached : r.lot = some a.lot ∨ r.incomingLot = some a.lot
  crossover_day : r.crossover.isSome = true → rd.day = u.businessDay
  replaces : rd.replace = true → replaceable r rd a.lot = true
  ordered : rd.replace = false → dayOrder r rd a.incoming = none

theorem admitReading_ok {u : RecordUnit} {r : LineRecord} {rd : Reading} {a : Attached}
    (h : admitReading u r rd = .ok a) : Admitted u r rd a := by
  unfold admitReading at h
  split at h
  · cases h
  split at h
  · cases h
  split at h
  · cases h
  split at h
  · cases h
  split at h
  · cases h
  rename_i lot hf
  split at h
  · cases h
  split at h
  · cases h
  split at h
  · cases h
  split at h
  · cases h
  rename_i hk _ hday htoo _ hw hlapsed hatt hx
  have hatt' : r.lot = some lot ∨ r.incomingLot = some lot := by
    by_contra hn
    exact hatt (not_or.1 hn)
  have hx' : r.crossover.isSome = true → rd.day = u.businessDay := fun hs => by
    by_contra hd
    exact hx ⟨hs, hd⟩
  split at h
  · split at h <;> cases h
    rename_i hr hrep
    exact ⟨hf, by omega, by omega, hlapsed, decide_eq_true_iff, hatt', hx', fun _ => hrep,
      fun hn => by simp [hr] at hn⟩
  · split at h <;> cases h
    rename_i hr _ hord
    exact ⟨hf, by omega, by omega, hlapsed, decide_eq_true_iff, hatt', hx',
      fun hn => absurd hn hr, fun _ => hord⟩

theorem LineCore.grade {t : Touch} (h : LineParts t.line) (hp : PointsOk t.line.kind t.line.stats)
    (corrected : Points Int) : LineCore (t.grade corrected).line := by
  refine settleLevel_core (r := { t.line with
      stats := gradeStats t.profile t.line.kind t.line.aimValues corrected t.line.stats })
    ⟨h.parts, h.count_bound, h.incoming_other, h.snapshot_ok⟩ ?_
  exact hp.mapStats fun i p =>
    pointInv_gradePoint (limitsOf t.profile i) t.profile.runLimit t.line.aimValues[i] corrected[i]

/-- The effects of an evaluated reading end with the attention bit recomputed (R62). -/
theorem LineCore.evaluated {t : Touch} (h : LineCore t.line) (day : Nat) :
    LineInv (t.evaluated day).line := by
  refine recomputeAttention_lineInv
    ⟨⟨?_, Nat.min_le_left _ _, h.parts.incoming_other, h.parts.snapshot_ok⟩, h.points,
      h.level_derived, h.ack_below⟩
  have hp := h.parts.parts
  simp only [Touch.bumpVersion_line, Touch.mapLine_line]
  unfold StateParts at hp ⊢
  split at hp <;> simp_all

/-- The fields that a record keeps when its statistics are reset and new ones loaded (R85). -/
theorem resetStats_core {r : LineRecord} (h : LineParts { r with stats := startStats }) :
    LineCore r.resetStats :=
  settleLevel_core h (pointsOk_start _)

theorem LineInv.takeBaseline {t : Touch} (h : LineInv t.line)
    (hs : t.line.state = .new ∨ t.line.state = .baseline) (hl : t.line.lot.isSome = true)
    (b : Baseline) : LineCore (t.takeBaseline b).1.line := by
  have hp : t.line.aims = none ∧ t.line.crossover = none ∧ t.line.snapshot = none ∧
      t.line.countdown = 0 := by
    obtain hs | hs := hs
    · obtain ⟨ha, _, hx, hn, hc⟩ := (stateParts_new hs).1 h.parts
      exact ⟨ha, hx, hn, hc⟩
    · obtain ⟨ha, _, _, hx, hn, hc⟩ := (stateParts_baseline hs).1 h.parts
      exact ⟨ha, hx, hn, hc⟩
  obtain ⟨ha, hx, hn, hc⟩ := hp
  unfold Touch.takeBaseline
  split
  · refine settleLevel_core (r := { t.line with
      stats := startStats
      aims := some (build12 fun i => roundMean b.sums[i] b.taken)
      baseline := none
      state := .active
      missed := 0 }) ⟨Iff.mpr (stateParts_active rfl) ⟨rfl, rfl, hl, fun _ => hn⟩, h.count_bound,
        h.incoming_other, h.core.parts.snapshot_ok⟩ (pointsOk_start _)
  · exact ⟨⟨Iff.mpr (stateParts_baseline rfl) ⟨ha, rfl, hl, hx, hn, hc⟩, h.count_bound,
      h.incoming_other, h.core.parts.snapshot_ok⟩, h.core.points, h.level_derived, h.ack_below⟩

theorem LineInv.handleBaseline {t : Touch} (h : LineInv t.line)
    (hs : t.line.state = .new ∨ t.line.state = .baseline) (hl : t.line.lot.isSome = true)
    (rd : Reading) (b : Baseline) : LineInv (handleBaseline t rd b).touched.line :=
  (h.takeBaseline hs hl b).evaluated rd.day

theorem LineInv.handleReinstating {t : Touch} (h : LineInv t.line)
    (hs : t.line.state = .reinstating) (rd : Reading) (corrected : Points Int) :
    LineInv (handleReinstating t rd corrected).touched.line := by
  obtain ⟨ha, hb, hl, hx, hn⟩ := (stateParts_reinstating hs).1 h.parts
  refine LineCore.evaluated (LineCore.grade (t := t.mapLine fun r =>
    { r.resetStats with state := .active }) ?_ (pointsOk_start _) corrected) rd.day
  exact ⟨Iff.mpr (stateParts_active rfl) ⟨ha, hb, hl, fun _ => hn⟩, h.count_bound, h.incoming_other,
    h.core.parts.snapshot_ok⟩

/-- A crossover part replaced by another on the same incoming lot (R119, R122). -/
theorem LineInv.keepCrossover {r : LineRecord} {x y : Crossover} (h : LineInv r)
    (hx : r.crossover = some x) (hy : y.incoming = x.incoming) :
    LineInv { r with crossover := some y } := by
  obtain ⟨hs, hn⟩ := h.parts.crossing hx
  obtain ⟨ha, hb, hl, _⟩ := (stateParts_active hs).1 h.parts
  refine LineCore.inv ⟨⟨Iff.mpr (stateParts_active hs) ⟨ha, hb, hl, fun _ => hn⟩, h.count_bound, ?_,
    h.core.parts.snapshot_ok⟩, h.core.points, h.level_derived, h.ack_below⟩ h.attention_condition
  rintro z ⟨rfl⟩
  rw [hy]
  exact h.incoming_other x hx

/-- The crossover part dropped, with the current lot as it was or another (R124, R125, R127). -/
theorem LineInv.dropCrossover {r : LineRecord} {x : Crossover} (h : LineInv r)
    (hx : r.crossover = some x) {lot : Option (Fin 64)} (hl : lot.isSome = true) :
    LineInv { r with crossover := none, lot := lot } := by
  obtain ⟨hs, hn⟩ := h.parts.crossing hx
  obtain ⟨ha, hb, _, _⟩ := (stateParts_active hs).1 h.parts
  exact LineCore.inv ⟨⟨Iff.mpr (stateParts_active hs) ⟨ha, hb, hl, nofun⟩, h.count_bound, nofun,
    fun n hk => absurd (hn.symm.trans hk) nofun⟩, h.core.points, h.level_derived, h.ack_below⟩
      h.attention_condition

theorem switchLot_line (t : Touch) (x : Crossover) :
    (t.switchLot x).line = { t.line with crossover := none, lot := some x.incoming } := by
  unfold Touch.switchLot
  cases t.line.lot <;> rfl

theorem LineInv.mismatchCrossover {t : Touch} {x : Crossover} (h : LineInv t.line)
    (hx : t.line.crossover = some x) : LineInv (t.mismatchCrossover x).line := by
  have hs := (h.parts.crossing hx).1
  obtain ⟨_, _, hl, _⟩ := (stateParts_active hs).1 h.parts
  have hd := (h.dropCrossover hx hl).core
  exact recomputeAttention_lineInv ⟨⟨hd.parts.parts, hd.parts.count_bound,
    hd.parts.incoming_other, hd.parts.snapshot_ok⟩, hd.points, hd.level_derived, hd.ack_below⟩

theorem LineInv.completePair {t : Touch} {x : Crossover} (h : LineInv t.line)
    (hx : t.line.crossover = some x) (newValues oldValues : Points Int) :
    LineInv (t.completePair x newValues oldValues).touched.line := by
  unfold Touch.completePair
  dsimp only
  split
  · split
    · rw [switchLot_line]
      exact h.dropCrossover hx rfl
    · exact h.mismatchCrossover hx
  · exact h.keepCrossover hx rfl

/-- Both sides of a crossover reading keep the record in order (R120, R121). -/
theorem LineInv.meet {t : Touch} (h : LineInv t.line) (side : Side) (day : Nat)
    (values : Points Int) : LineInv (t.meet side day values).touched.line := by
  unfold Touch.meet
  dsimp only
  split
  · exact h
  rename_i x hx
  split
  · exact h.keepCrossover hx rfl
  split
  · split
    · split <;> exact h.completePair hx _ _
    · exact h
  · exact h.keepCrossover hx rfl

/-- The version, the region, the profile and the mark are free of the other fields. -/
theorem LineInv.setOwn {r : LineRecord} (h : LineInv r) (version : BitVec 16) (region : Fin 64)
    (profile : Fin 32) (marginal : Bool) :
    LineInv { r with
      version := version
      region := region
      profile := profile
      marginal := marginal } :=
  ⟨h.parts, h.level_derived, h.ack_below, h.attention_condition, h.points_ok, h.spare_points,
    h.count_bound, h.incoming_other, h.snapshot_ok⟩

theorem LineInv.bumpVersion {t : Touch} (h : LineInv t.line) : LineInv t.bumpVersion.line :=
  h.setOwn _ _ _ _

/-- A snapshot set or cleared on a record without a crossover (R58, R63). -/
theorem LineInv.setSnapshot {r : LineRecord} (h : LineInv r) (hs : r.state = .active)
    (hx : r.crossover = none) {snapshot : Option Snapshot}
    (hn : ∀ n, snapshot = some n →
      r.lot = some n.lot ∧ n.level = statsLevel n.stats ∧ PointsOk r.kind n.stats) :
    LineParts { r with snapshot := snapshot } := by
  obtain ⟨ha, hb, hl, _⟩ := (stateParts_active hs).1 h.parts
  exact ⟨Iff.mpr (stateParts_active hs) ⟨ha, hb, hl, fun hc => by simp [hx] at hc⟩, h.count_bound,
    h.incoming_other, hn⟩

/-- An accepted reading of an ACTIVE record under its current lot (R58 to R60). -/
theorem LineInv.handleActive {t : Touch} (h : LineInv t.line) (hs : t.line.state = .active)
    {lot : Fin 64} (hl : t.line.lot = some lot) (rd : Reading) (corrected : Points Int) :
    LineInv (handleActive t rd lot corrected).touched.line := by
  unfold Machine.handleActive
  split
  · exact ((LineCore.grade h.core.parts h.core.points corrected).evaluated rd.day).meet _ _ _
  rename_i hx
  have hx' : t.line.crossover = none := by simpa using hx
  split
  · refine LineCore.evaluated (LineCore.grade (t := t.mapLine (·.restoreSnapshot)) ?_ ?_ _) rd.day
    all_goals
      simp only [Touch.mapLine_line, LineRecord.restoreSnapshot]
      split
    · exact h.core.parts
    · exact ⟨h.parts, h.count_bound, h.incoming_other, h.core.parts.snapshot_ok⟩
    · exact h.core.points
    · rename_i n hn
      exact (h.core.parts.snapshot_ok n hn).2.2
  · refine LineCore.evaluated (LineCore.grade (t := t.mapLine fun r =>
      if rd.day = t.unit.businessDay then r.takeSnapshot rd.day lot
      else { r with snapshot := none }) ?_ ?_ _) rd.day
    all_goals
      simp only [Touch.mapLine_line, LineRecord.takeSnapshot]
      split
    · refine h.setSnapshot hs hx' ?_
      rintro n ⟨rfl⟩
      exact ⟨hl, h.level_derived, h.core.points⟩
    · exact h.setSnapshot hs hx' nofun
    · exact h.core.points
    · exact h.core.points

/-- An admitted reading keeps its record in order, in every state (R54). -/
theorem LineInv.handled {t : Touch} {rd : Reading} {a : Attached} (h : LineInv t.line)
    (ha : Admitted t.unit t.line rd a) : LineInv (handle t rd a).touched.line := by
  unfold handle
  dsimp only
  split
  · exact h.bumpVersion.meet _ _ _
  rename_i hi
  have hl : t.line.lot = some a.lot := not_not.1 fun hn => hi (ha.incoming_iff.2 hn)
  have hsome : t.line.lot.isSome = true := by simp [hl]
  split
  · rename_i hs
    exact h.handleBaseline (.inl hs) hsome _ _
  · rename_i hs
    exact h.handleBaseline (.inr hs) hsome _ _
  · rename_i hs
    exact h.handleReinstating hs _ _
  · rename_i hs
    exact h.handleActive hs hl _ _
  · exact h

/-! ## Requests (R20 to R24, R87, R90, R108, R118, R127, R131, R135) -/

theorem moveRegion_line (t : Touch) (region : Fin 64) :
    (t.moveRegion region).line = { t.line with region := region } := by
  unfold Touch.moveRegion
  split
  · rename_i h
    rw [h]
  · dsimp only
    split <;> rfl

theorem moveProfile_line (t : Touch) (profile : Fin 32) :
    (t.moveProfile profile).line = { t.line with profile := profile } := by
  unfold Touch.moveProfile
  split
  · rename_i h
    rw [h]
  · rfl

theorem moveLotCounts_line (t : Touch) (lot : Fin 64) : (t.moveLotCounts lot).line = t.line := by
  unfold Touch.moveLotCounts
  split
  · rfl
  · split <;> rfl

/-- The aims loaded make a NEW or BASELINE record ACTIVE (R87). -/
theorem LineInv.loadAims {r : LineRecord} (h : LineInv r) (hs : r.state ≠ .lapsed)
    (hr : r.state ≠ .reinstating) (hl : r.state = .new → r.lot ≠ none) (interval : Nat)
    (aims : Points Int) : LineCore (r.loadAims interval aims) := by
  have hlot : r.lot.isSome = true := by
    cases hst : r.state with
    | new => exact Option.isSome_iff_ne_none.2 (hl hst)
    | baseline => exact ((stateParts_baseline hst).1 h.parts).2.2.1
    | active => exact ((stateParts_active hst).1 h.parts).2.2.1
    | lapsed => exact absurd hst hs
    | reinstating => exact absurd hst hr
  have hact : (if (decide (r.state = .new) || decide (r.state = .baseline)) = true then .active
      else r.state) = SurvState.active := by
    cases hst : r.state <;> simp_all
  refine settleLevel_core (r := { r with
    stats := startStats
    aims := some aims
    baseline := none
    snapshot := none
    state := if decide (r.state = .new) || decide (r.state = .baseline) then .active else r.state
    countdown := if decide (r.state = .new) || decide (r.state = .baseline) then interval
      else r.countdown
    missed := if decide (r.state = .new) || decide (r.state = .baseline) then 0 else r.missed })
    ⟨?_, h.count_bound, h.incoming_other, nofun⟩ (pointsOk_start _)
  exact Iff.mpr (stateParts_active hact) ⟨rfl, rfl, hlot, fun _ => rfl⟩

/-- Another lot, or the first, for a record without a crossover (R131). -/
theorem LineInv.setLot {r : LineRecord} (h : LineInv r) (hx : r.crossover = none) (lot : Fin 64) :
    LineInv (r.setLot lot) := by
  refine LineCore.inv ⟨⟨?_, h.count_bound, ?_, nofun⟩, h.core.points, h.level_derived,
    h.ack_below⟩ h.attention_condition
  · have hp := h.parts
    unfold StateParts at hp ⊢
    simp only [LineRecord.setLot]
    split at hp <;> simp_all
  · exact fun x hk => absurd (hx.symm.trans hk) nofun

theorem LineInv.openCrossover {r : LineRecord} (h : LineInv r) (hs : r.state = .active)
    {lot : Fin 64} (hl : r.lot ≠ some lot) (required : Nat) :
    LineInv (r.openCrossover lot required) := by
  obtain ⟨ha, hb, hlot, _⟩ := (stateParts_active hs).1 h.parts
  refine LineCore.inv ⟨⟨Iff.mpr (stateParts_active hs) ⟨ha, hb, hlot, fun _ => rfl⟩, h.count_bound, ?_,
    nofun⟩, h.core.points, h.level_derived, h.ack_below⟩ h.attention_condition
  rintro x ⟨rfl⟩
  exact hl

theorem LineInv.clearDrift {r : LineRecord} (h : LineInv r) (hs : r.state = .active)
    (pr : Profile) : LineCore (r.clearDrift pr) := by
  obtain ⟨ha, hb, hlot, _⟩ := (stateParts_active hs).1 h.parts
  exact settleLevel_core (r := { r with
      stats := mapStats r.kind (fun i p => clearPoint (limitsOf pr i) p) r.stats
      snapshot := none })
    ⟨Iff.mpr (stateParts_active hs) ⟨ha, hb, hlot, fun _ => rfl⟩, h.count_bound, h.incoming_other, nofun⟩
    (h.core.points.mapStats fun i _ => pointInv_clearPoint (limitsOf pr i))

theorem LineInv.reinstate {r : LineRecord} (h : LineInv r) (hs : r.state = .lapsed)
    (interval : Nat) :
    LineInv { r with state := .reinstating, countdown := interval, missed := 0 } := by
  obtain ⟨ha, hb, hl, hx, hn, _⟩ := (stateParts_lapsed hs).1 h.parts
  exact LineCore.inv ⟨⟨Iff.mpr (stateParts_reinstating rfl) ⟨ha, hb, hl, hx, hn⟩, h.count_bound,
    h.incoming_other, h.core.parts.snapshot_ok⟩, h.core.points, h.level_derived, h.ack_below⟩
      h.attention_condition

theorem lineInv_newRecord (slot site lineNo : Nat) (region : Fin 64) (kind : ProcessKind)
    (profile : Fin 32) (day : Nat) (lot : Option (Fin 64)) :
    LineInv (newRecord slot site lineNo region kind profile day lot) := by
  refine LineCore.inv ⟨⟨Iff.mpr (stateParts_new rfl) ⟨rfl, rfl, rfl, rfl, rfl⟩, Nat.zero_le _, nofun,
    nofun⟩, pointsOk_start _, ?_, Nat.le_refl _⟩ rfl
  show Level.ok = statsLevel startStats
  decide

/-! ## Every work, every step -/

/-- Every work on a record keeps it in order. -/
theorem LineInv.worked {w t : Touch} (h : LineInv w.line) (hw : Worked w t) : LineInv t.line := by
  cases hw with
  | read => exact h
  | moved region =>
    rw [Touch.bumpVersion_line, moveRegion_line]
    exact h.setOwn _ _ _ _
  | profiled profile =>
    rw [Touch.bumpVersion_line, moveProfile_line]
    exact h.setOwn _ _ _ _
  | aimed aims hs hr hl =>
    have hc := h.loadAims hs hr hl w.profile.stripInterval aims
    exact recomputeAttention_lineInv ⟨⟨hc.parts.parts, hc.parts.count_bound,
      hc.parts.incoming_other, hc.parts.snapshot_ok⟩, hc.points, hc.level_derived, hc.ack_below⟩
  | lotSet lot hx =>
    rw [Touch.bumpVersion_line, Touch.mapLine_line, moveLotCounts_line]
    exact (h.setLot hx lot).setOwn _ _ _ _
  | opened lot ha _ _ _ hl => exact (h.openCrossover ha hl _).setOwn _ _ _ _
  | cancelled x hx =>
    obtain ⟨_, _, hl, _⟩ := (stateParts_active (h.parts.crossing hx).1).1 h.parts
    exact (h.dropCrossover hx hl).setOwn _ _ _ _
  | acknowledged =>
    exact recomputeAttention_lineInv ⟨⟨h.parts, h.count_bound, h.incoming_other,
      h.core.parts.snapshot_ok⟩, h.core.points, h.level_derived, Nat.le_refl _⟩
  | driftCleared ha =>
    have hc := h.clearDrift ha w.profile
    exact recomputeAttention_lineInv ⟨⟨hc.parts.parts, hc.parts.count_bound,
      hc.parts.incoming_other, hc.parts.snapshot_ok⟩, hc.points, hc.level_derived, hc.ack_below⟩
  | reinstated hs => exact (h.reinstate hs _).setOwn _ _ _ _
  | handled rd a ha => exact h.handled (admitReading_ok ha)
  | marked mark => exact h.setOwn _ _ _ _

end Sys2Proof.Machine
end

section
/-! What work on one record leaves alone in the record's key and in the Record Unit around it, and
every live record kept in order by every step. -/

namespace Sys2Proof.Machine

open Sys2Proof

/-! ## Count operations change counts alone -/

/-- What the count operations leave alone: everything of the Record Unit but the tables, and of a
table's entry everything but its counts. -/
structure CountsOnly (u v : RecordUnit) : Prop where
  rest : { v with profiles := u.profiles, lots := u.lots, regions := u.regions } = u
  profiles : ∀ i : Fin 32,
    { v.profiles[i] with useCount := 0 } = { u.profiles[i] with useCount := 0 }
  lots : ∀ i : Fin 64, { v.lots[i] with currentUsers := 0, incomingUsers := 0 } =
    { u.lots[i] with currentUsers := 0, incomingUsers := 0 }
  regions : ∀ i : Fin 64, { v.regions[i] with liveCount := 0, attentionCount := 0 } =
    { u.regions[i] with liveCount := 0, attentionCount := 0 }

theorem CountsOnly.refl (u : RecordUnit) : CountsOnly u u :=
  ⟨rfl, fun _ => rfl, fun _ => rfl, fun _ => rfl⟩

theorem CountsOnly.trans {u v w : RecordUnit} (h : CountsOnly u v) (k : CountsOnly v w) :
    CountsOnly u w where
  rest := by
    have hr := h.rest
    rw [← k.rest] at hr
    exact hr
  profiles i := (k.profiles i).trans (h.profiles i)
  lots i := (k.lots i).trans (h.lots i)
  regions i := (k.regions i).trans (h.regions i)

/-- A change of some use counts alone. -/
theorem countsOnly_modifyProfile (u : RecordUnit) (i : Fin 32) {f : Profile → Profile}
    (hf : ∀ p, { f p with useCount := 0 } = { p with useCount := 0 }) :
    CountsOnly u (u.modifyProfile i f) := by
  refine ⟨rfl, fun j => ?_, fun _ => rfl, fun _ => rfl⟩
  rw [modifyProfile_profiles]
  split
  · subst j; exact hf _
  · rfl

theorem countsOnly_modifyLot (u : RecordUnit) (i : Fin 64) {f : Lot → Lot}
    (hf : ∀ l, { f l with currentUsers := 0, incomingUsers := 0 } =
      { l with currentUsers := 0, incomingUsers := 0 }) :
    CountsOnly u (u.modifyLot i f) := by
  refine ⟨rfl, fun _ => rfl, fun j => ?_, fun _ => rfl⟩
  rw [modifyLot_lots]
  split
  · subst j; exact hf _
  · rfl

theorem countsOnly_modifyRegion (u : RecordUnit) (i : Fin 64) {f : Region → Region}
    (hf : ∀ g, { f g with liveCount := 0, attentionCount := 0 } =
      { g with liveCount := 0, attentionCount := 0 }) :
    CountsOnly u (u.modifyRegion i f) := by
  refine ⟨rfl, fun _ => rfl, fun _ => rfl, fun j => ?_⟩
  rw [modifyRegion_regions]
  split
  · subst j; exact hf _
  · rfl

theorem countsOnly_addProfileUse (u : RecordUnit) (i : Fin 32) : CountsOnly u (addProfileUse u i) :=
  countsOnly_modifyProfile u i fun _ => rfl

theorem countsOnly_dropProfileUse (u : RecordUnit) (i : Fin 32) :
    CountsOnly u (dropProfileUse u i) :=
  countsOnly_modifyProfile u i fun _ => rfl

theorem countsOnly_addCurrentUser (u : RecordUnit) (i : Fin 64) :
    CountsOnly u (addCurrentUser u i) :=
  countsOnly_modifyLot u i fun _ => rfl

theorem countsOnly_dropCurrentUser (u : RecordUnit) (i : Fin 64) :
    CountsOnly u (dropCurrentUser u i) :=
  countsOnly_modifyLot u i fun _ => rfl

theorem countsOnly_addIncomingUser (u : RecordUnit) (i : Fin 64) :
    CountsOnly u (addIncomingUser u i) :=
  countsOnly_modifyLot u i fun _ => rfl

theorem countsOnly_dropIncomingUser (u : RecordUnit) (i : Fin 64) :
    CountsOnly u (dropIncomingUser u i) :=
  countsOnly_modifyLot u i fun _ => rfl

theorem countsOnly_addLive (u : RecordUnit) (i : Fin 64) : CountsOnly u (addLive u i) :=
  countsOnly_modifyRegion u i fun _ => rfl

theorem countsOnly_dropLive (u : RecordUnit) (i : Fin 64) : CountsOnly u (dropLive u i) :=
  countsOnly_modifyRegion u i fun _ => rfl

theorem countsOnly_addAttention (u : RecordUnit) (i : Fin 64) : CountsOnly u (addAttention u i) :=
  countsOnly_modifyRegion u i fun _ => rfl

theorem countsOnly_dropAttention (u : RecordUnit) (i : Fin 64) :
    CountsOnly u (dropAttention u i) :=
  countsOnly_modifyRegion u i fun _ => rfl

/-! ## Work on one record -/

/-- The key, slot and kind of a record. -/
structure SameKey (r r' : LineRecord) : Prop where
  slot : r'.slot = r.slot
  site : r'.site = r.site
  lineNo : r'.lineNo = r.lineNo
  kind : r'.kind = r.kind

theorem SameKey.refl (r : LineRecord) : SameKey r r := ⟨rfl, rfl, rfl, rfl⟩

/-- What work on one record leaves alone. -/
structure WorkFrame (w t : Touch) : Prop where
  line : SameKey w.line t.line
  unit : CountsOnly w.unit t.unit

theorem WorkFrame.refl (t : Touch) : WorkFrame t t := ⟨.refl _, .refl _⟩

theorem WorkFrame.trans {a b c : Touch} (h : WorkFrame a b) (k : WorkFrame b c) : WorkFrame a c :=
  ⟨⟨k.line.slot.trans h.line.slot, k.line.site.trans h.line.site,
    k.line.lineNo.trans h.line.lineNo, k.line.kind.trans h.line.kind⟩, h.unit.trans k.unit⟩

theorem workFrame_mapLine (t : Touch) {f : LineRecord → LineRecord} (h : SameKey t.line (f t.line)) :
    WorkFrame t (t.mapLine f) :=
  ⟨h, .refl _⟩

theorem workFrame_mapUnit (t : Touch) {f : RecordUnit → RecordUnit}
    (h : CountsOnly t.unit (f t.unit)) : WorkFrame t (t.mapUnit f) :=
  ⟨.refl _, h⟩

theorem workFrame_bumpVersion (t : Touch) : WorkFrame t t.bumpVersion :=
  workFrame_mapLine t ⟨rfl, rfl, rfl, rfl⟩

/-- What a day step keeps, work on a record keeps. -/
theorem DayKept.workFrame {w t : Touch} (h : DayKept w t) : WorkFrame w t := by
  obtain ⟨hs, hi, hn, _, hk, _, _, _, _⟩ := h.fields
  obtain ⟨_, _, _, _, _, hp, _, _, _, _, _, _⟩ := h.unit_fields
  refine ⟨⟨hs, hi, hn, hk⟩, ⟨?_, fun i => by rw [hp], fun i => ?_, fun i => ?_⟩⟩
  · rw [← hp]
    exact h.unit
  · exact congrArg (fun l : Lot => { l with currentUsers := 0, incomingUsers := 0 }) (h.lots i)
  · exact congrArg (fun g : Region => { g with liveCount := 0, attentionCount := 0 }) (h.regions i)

theorem workFrame_recomputeAttention (t : Touch) : WorkFrame t t.recomputeAttention :=
  (DayKept.recomputeAttention t).workFrame

theorem workFrame_moveRegion (t : Touch) (region : Fin 64) : WorkFrame t (t.moveRegion region) := by
  have live := (countsOnly_dropLive t.unit t.line.region).trans (countsOnly_addLive _ region)
  unfold Touch.moveRegion
  split
  · exact .refl t
  · dsimp only
    split
    · exact ⟨⟨rfl, rfl, rfl, rfl⟩,
        (live.trans (countsOnly_dropAttention _ _)).trans (countsOnly_addAttention _ _)⟩
    · exact ⟨⟨rfl, rfl, rfl, rfl⟩, live⟩

theorem workFrame_moveProfile (t : Touch) (profile : Fin 32) :
    WorkFrame t (t.moveProfile profile) := by
  unfold Touch.moveProfile
  split
  · exact .refl t
  · exact ⟨⟨rfl, rfl, rfl, rfl⟩,
      (countsOnly_dropProfileUse _ _).trans (countsOnly_addProfileUse _ _)⟩

theorem workFrame_moveLotCounts (t : Touch) (lot : Fin 64) : WorkFrame t (t.moveLotCounts lot) := by
  unfold Touch.moveLotCounts
  split
  · exact workFrame_mapUnit t (countsOnly_addCurrentUser _ _)
  · split
    · exact .refl t
    · exact workFrame_mapUnit t
        ((countsOnly_dropCurrentUser _ _).trans (countsOnly_addCurrentUser _ _))

theorem workFrame_switchLot (t : Touch) (x : Crossover) : WorkFrame t (t.switchLot x) := by
  have moved := fun u : RecordUnit =>
    (countsOnly_dropIncomingUser u x.incoming).trans (countsOnly_addCurrentUser _ x.incoming)
  unfold Touch.switchLot
  cases t.line.lot with
  | none => exact ⟨⟨rfl, rfl, rfl, rfl⟩, moved _⟩
  | some old => exact ⟨⟨rfl, rfl, rfl, rfl⟩, (countsOnly_dropCurrentUser _ old).trans (moved _)⟩

theorem workFrame_mismatchCrossover (t : Touch) (x : Crossover) :
    WorkFrame t (t.mismatchCrossover x) :=
  ((workFrame_mapUnit t (countsOnly_dropIncomingUser _ x.incoming)).trans
    (workFrame_mapLine _ ⟨rfl, rfl, rfl, rfl⟩)).trans (workFrame_recomputeAttention _)

theorem workFrame_completePair (t : Touch) (x : Crossover) (newValues oldValues : Points Int) :
    WorkFrame t (t.completePair x newValues oldValues).touched := by
  unfold Touch.completePair
  dsimp only
  split
  · split
    · exact workFrame_switchLot t x
    · exact workFrame_mismatchCrossover t x
  · exact ⟨⟨rfl, rfl, rfl, rfl⟩, .refl _⟩

theorem workFrame_meet (t : Touch) (side : Side) (day : Nat) (values : Points Int) :
    WorkFrame t (t.meet side day values).touched := by
  have held : ∀ x, WorkFrame t (t.hold x side day values) :=
    fun _ => ⟨⟨rfl, rfl, rfl, rfl⟩, .refl _⟩
  unfold Touch.meet
  dsimp only
  split
  · exact .refl t
  split
  · exact held _
  split
  · split
    · split <;> exact workFrame_completePair t _ _ _
    · exact .refl t
  · exact held _

theorem workFrame_grade (t : Touch) (corrected : Points Int) : WorkFrame t (t.grade corrected) :=
  workFrame_mapLine t ⟨rfl, rfl, rfl, rfl⟩

theorem workFrame_evaluated (t : Touch) (day : Nat) : WorkFrame t (t.evaluated day) :=
  ((workFrame_mapLine t ⟨rfl, rfl, rfl, rfl⟩).trans (workFrame_bumpVersion _)).trans
    (workFrame_recomputeAttention _)

theorem workFrame_takeBaseline (t : Touch) (b : Baseline) : WorkFrame t (t.takeBaseline b).1 := by
  unfold Touch.takeBaseline
  split <;> exact ⟨⟨rfl, rfl, rfl, rfl⟩, .refl _⟩

theorem workFrame_handleActive (t : Touch) (rd : Reading) (lot : Fin 64) (corrected : Points Int) :
    WorkFrame t (handleActive t rd lot corrected).touched := by
  have evaluated := fun t : Touch =>
    (workFrame_grade t corrected).trans (workFrame_evaluated _ rd.day)
  unfold handleActive
  split
  · exact (evaluated t).trans (workFrame_meet _ _ _ _)
  split
  · refine (workFrame_mapLine t ?_).trans (evaluated _)
    unfold LineRecord.restoreSnapshot
    split <;> exact ⟨rfl, rfl, rfl, rfl⟩
  · refine (workFrame_mapLine t ?_).trans (evaluated _)
    split <;> exact ⟨rfl, rfl, rfl, rfl⟩

theorem workFrame_handle (t : Touch) (rd : Reading) (a : Attached) :
    WorkFrame t (handle t rd a).touched := by
  unfold handle
  dsimp only
  split
  · exact (workFrame_bumpVersion t).trans (workFrame_meet _ _ _ _)
  split
  · exact (workFrame_takeBaseline t _).trans (workFrame_evaluated _ _)
  · exact (workFrame_takeBaseline t _).trans (workFrame_evaluated _ _)
  · exact ((workFrame_mapLine t ⟨rfl, rfl, rfl, rfl⟩).trans (workFrame_grade _ _)).trans
      (workFrame_evaluated _ _)
  · exact workFrame_handleActive t _ _ _
  · exact .refl t

/-- What every work on a record leaves alone. -/
theorem Worked.frame {w t : Touch} (h : Worked w t) : WorkFrame w t := by
  have changed := fun f hf => (workFrame_mapLine w (f := f) hf).trans (workFrame_bumpVersion _)
  cases h with
  | read => exact .refl w
  | moved region => exact (workFrame_moveRegion w region).trans (workFrame_bumpVersion _)
  | profiled profile => exact (workFrame_moveProfile w profile).trans (workFrame_bumpVersion _)
  | aimed | acknowledged | driftCleared =>
    exact (changed _ ⟨rfl, rfl, rfl, rfl⟩).trans (workFrame_recomputeAttention _)
  | lotSet lot =>
    exact ((workFrame_moveLotCounts w lot).trans
      (workFrame_mapLine _ ⟨rfl, rfl, rfl, rfl⟩)).trans (workFrame_bumpVersion _)
  | opened lot =>
    exact ((workFrame_mapLine w ⟨rfl, rfl, rfl, rfl⟩).trans
      (workFrame_mapUnit _ (countsOnly_addIncomingUser _ lot))).trans (workFrame_bumpVersion _)
  | cancelled x =>
    exact ((workFrame_mapLine w ⟨rfl, rfl, rfl, rfl⟩).trans
      (workFrame_mapUnit _ (countsOnly_dropIncomingUser _ x.incoming))).trans
        (workFrame_bumpVersion _)
  | reinstated => exact changed _ ⟨rfl, rfl, rfl, rfl⟩
  | handled rd a => exact workFrame_handle w rd a
  | marked => exact workFrame_mapLine w ⟨rfl, rfl, rfl, rfl⟩

/-- What catching a record up and working on it leaves alone. -/
theorem Worked.frame_touch {u : RecordUnit} {r : LineRecord} {t : Touch}
    (h : Worked (touch u r) t) : WorkFrame ⟨r, u, false⟩ t :=
  (touch_kept u r).workFrame.trans h.frame

theorem CountsOnly.records {u v : RecordUnit} (h : CountsOnly u v) : v.records = u.records :=
  (congrArg RecordUnit.records h.rest :)

/-! ## Every live record in order -/

theorem mem_insertRecord {r x : LineRecord} {l : List LineRecord} :
    x ∈ insertRecord r l ↔ x = r ∨ x ∈ l := by
  induction l with
  | nil => simp [insertRecord]
  | cons y ys ih =>
    unfold insertRecord
    split
    · simp
    · simp only [List.mem_cons, ih]
      tauto

@[simp] theorem createRecord_records (u : RecordUnit) (r : LineRecord) :
    (createRecord u r).records = insertRecord r u.records := by
  unfold createRecord
  cases r.lot <;> rfl

/-- The count changes of RETIRE_LINE change counts alone (R22). -/
theorem countsOnly_retireCounts (u : RecordUnit) (r : LineRecord) :
    CountsOnly u (retireCounts u r) := by
  unfold retireCounts
  dsimp only
  have live := (countsOnly_dropProfileUse u r.profile).trans (countsOnly_dropLive _ r.region)
  have attention : CountsOnly u (if r.attention then
      dropAttention (dropLive (dropProfileUse u r.profile) r.region) r.region
      else dropLive (dropProfileUse u r.profile) r.region) := by
    split
    · exact live.trans (countsOnly_dropAttention _ _)
    · exact live
  generalize (if r.attention then
      dropAttention (dropLive (dropProfileUse u r.profile) r.region) r.region
      else dropLive (dropProfileUse u r.profile) r.region) = v at attention ⊢
  have current : CountsOnly u (match r.lot with
      | none => v
      | some i => dropCurrentUser v i) := by
    cases r.lot with
    | none => exact attention
    | some i => exact attention.trans (countsOnly_dropCurrentUser _ i)
  cases r.crossover with
  | none => exact current
  | some x => exact current.trans (countsOnly_dropIncomingUser _ x.incoming)

theorem retireRecord_records (u : RecordUnit) (r : LineRecord) :
    (retireRecord u r).records = u.records.filter fun x => x.slot != r.slot := by
  rw [← (countsOnly_retireCounts u r).records]
  rfl

/-- The records after work on one of them. -/
theorem Worked.commit_records {u : RecordUnit} {r : LineRecord} {t : Touch}
    (h : Worked (touch u r) t) :
    t.commit.records = u.records.map fun x => if x.slot = r.slot then t.line else x := by
  have hf := h.frame_touch
  have hu : t.unit.records = u.records := hf.unit.records
  have hs : t.line.slot = r.slot := hf.line.slot
  unfold Touch.commit RecordUnit.putRecord
  rw [hu, hs]

/-- A property of records that work keeps is kept of every record by work on one of them. -/
theorem Worked.forall_records {P : LineRecord → Prop} {u : RecordUnit} {r : LineRecord} {t : Touch}
    (h : Worked (touch u r) t) (hu : ∀ x ∈ u.records, P x) (ht : P t.line) :
    ∀ x ∈ t.commit.records, P x := by
  intro x hx
  obtain rfl | hx := mem_putRecord hx
  · exact ht
  · rw [h.frame_touch.unit.records] at hx
    exact hu x hx

/-- Every work of the Record Unit keeps every record in order. -/
theorem Effect.lines {u v : RecordUnit} (h : Effect u v) (hu : ∀ r ∈ u.records, LineInv r) :
    ∀ r ∈ v.records, LineInv r := by
  cases h with
  | stands => exact hu
  | worked hr hw => exact hw.forall_records hu (((hu _ hr).touched u).worked hw)
  | created region ht =>
    unfold RecordUnit.takeSlot at ht
    split at ht <;> cases ht
    intro r hr
    rw [createRecord_records, mem_insertRecord] at hr
    obtain rfl | hr := hr
    · exact lineInv_newRecord ..
    · exact hu r hr
  | retired hr =>
    intro x hx
    rw [retireRecord_records, (touch_kept u _).unit_fields.1] at hx
    exact hu x (List.mem_filter.1 hx).1
  | @scanned visited hv =>
    have hall : ∀ r ∈ visited, LineInv r := fun r hr => hu r (hv.subset hr)
    clear hv
    unfold walked
    induction visited generalizing u with
    | nil => exact hu
    | cons r rest ih =>
      have hw : Worked (touch u r) (touch u r) := .read
      exact ih (hw.forall_records hu ((hall r List.mem_cons_self).touched u))
        fun x hx => hall x (List.mem_cons_of_mem r hx)
  | profileWritten | profilesFrozen | lotAdded | lotWithdrawn | lotRemoved | holdSet | dayClosed
  | surveyStarted | surveyStopped => exact hu

theorem UnitMove.lines {s t : State} (h : UnitMove s t) (hs : LinesInv s) : LinesInv t := by
  unfold LinesInv
  cases h with
  | worked v he hv =>
    rw [hv.records]
    exact he.lines hs
  | initialised _ hu =>
    rw [hu]
    exact fun r hr => nomatch hr

theorem linesInv_kept : KeptByActions LinesInv where
  queue _ _ h := h
  sent s h := by
    unfold LinesInv
    rw [State.sendOldest_unit]
    exact h
  settled before s h := by
    unfold LinesInv
    rw [settle_unit]
    exact h
  cold held s := fun r hr => nomatch hr
  acts _ _ _ ha h := ha.unitMove.lines h

/-- Settles O57: each action works on one record at a time, and each work on a record keeps `LineInv`. -/
theorem stepKeepsEveryLine : Obligations.StepKeepsEveryLine :=
  fun _ _ hs h => linesInv_kept.step h hs

end Sys2Proof.Machine
end

section
/-! Slots, key index and free-slot ring: what a taken and a returned slot do to the ring, what a new
record and a retired one do to chains and table, and the order of the table kept by every step. -/

namespace Sys2Proof.Machine

open Sys2Proof

/-! ## The ring (R12, R13) -/

/-- The slot number at a position of the ring. -/
theorem ringAt_eq (u : RecordUnit) (p : Nat) :
    u.ringAt p = u.ring[p % 4096]'(Nat.mod_lt _ (by decide)) := by
  simp [RecordUnit.ringAt, Vector.getD, Nat.mod_lt]

theorem ringAt_mod (u : RecordUnit) (p : Nat) : u.ringAt (p % 4096) = u.ringAt p := by
  unfold RecordUnit.ringAt
  rw [Nat.mod_mod]

/-- The ring's slots, the one at its head first. -/
theorem heldSlots_succ {u : RecordUnit} {n : Nat} (h : u.freeCount = n + 1) :
    u.heldSlots =
      u.ringAt u.ringHead :: (List.range n).map fun i => u.ringAt (u.ringHead + 1 + i) := by
  unfold RecordUnit.heldSlots
  rw [h, List.range_succ_eq_map, List.map_cons, List.map_map]
  congr 1
  apply List.map_congr_left
  intro i _
  simp only [Function.comp_apply]
  congr 1
  omega

/-- A slot taken is the first of the ring's, and the others stay in order. -/
theorem heldSlots_takeSlot {u v : RecordUnit} {slot : Nat} (ht : u.takeSlot = some (slot, v))
    (hh : u.ringHead < 4096) (hl : u.ringTail < 4096) : u.heldSlots = slot :: v.heldSlots := by
  unfold RecordUnit.takeSlot at ht
  split at ht <;> cases ht
  rename_i hne
  have hc : u.freeCount =
      RecordUnit.freeCount { u with ringHead := (u.ringHead + 1) % 4096 } + 1 := by
    unfold RecordUnit.freeCount
    dsimp only
    omega
  rw [heldSlots_succ hc]
  unfold RecordUnit.heldSlots
  congr 1
  apply List.map_congr_left
  intro i _
  show u.ringAt (u.ringHead + 1 + i) = u.ringAt ((u.ringHead + 1) % 4096 + i)
  rw [← ringAt_mod u (u.ringHead + 1 + i), ← ringAt_mod u ((u.ringHead + 1) % 4096 + i)]
  congr 1
  omega

/-- A slot returned is the last of the ring's, where the ring is not full. -/
theorem heldSlots_returnSlot {u : RecordUnit} (slot : Nat) (hc : u.freeCount < 4095)
    (hh : u.ringHead < 4096) (hl : u.ringTail < 4096) :
    (u.returnSlot slot).heldSlots = u.heldSlots ++ [slot] := by
  have hfree : (u.returnSlot slot).freeCount = u.freeCount + 1 := by
    unfold RecordUnit.freeCount at hc ⊢
    simp only [RecordUnit.returnSlot]
    omega
  have hat : ∀ p, (u.returnSlot slot).ringAt p =
      if p % 4096 = u.ringTail then slot else u.ringAt p := by
    intro p
    simp only [ringAt_eq, RecordUnit.returnSlot, Vector.getElem_setIfInBounds]
    simp only [eq_comm]
  unfold RecordUnit.heldSlots
  rw [hfree, List.range_succ, List.map_append]
  congr 1
  · apply List.map_congr_left
    intro i hi
    rw [List.mem_range] at hi
    rw [RecordUnit.returnSlot_ringHead, hat, if_neg]
    unfold RecordUnit.freeCount at hi hc
    omega
  · rw [List.map_singleton, RecordUnit.returnSlot_ringHead, hat, if_pos]
    unfold RecordUnit.freeCount
    omega

theorem heldSlots_length (u : RecordUnit) : u.heldSlots.length = u.freeCount := by
  simp [RecordUnit.heldSlots]

/-- The ring's slots depend on the ring alone. -/
theorem heldSlots_congr {u v : RecordUnit} (hr : v.ring = u.ring) (hh : v.ringHead = u.ringHead)
    (ht : v.ringTail = u.ringTail) : v.heldSlots = u.heldSlots := by
  unfold RecordUnit.heldSlots RecordUnit.freeCount RecordUnit.ringAt
  rw [hr, hh, ht]

/-! ## The keys of the live records -/

/-- A record's slot and key. -/
def LineRecord.place (r : LineRecord) : Nat × Nat × Nat := (r.slot, r.site, r.lineNo)

theorem recordAt_eq_none_iff (u : RecordUnit) (n : Nat) :
    u.recordAt n = none ↔ ∀ r ∈ u.records, r.slot ≠ n := by
  simp [RecordUnit.recordAt, List.find?_eq_none]

/-- In a table in slot order a record is the one its slot holds. -/
theorem eq_of_slot_eq {l : List LineRecord} (h : l.Pairwise fun a b => a.slot < b.slot)
    {r x : LineRecord} (hr : r ∈ l) (hx : x ∈ l) (he : x.slot = r.slot) : x = r := by
  have hn : (l.map LineRecord.slot).Nodup := List.pairwise_map.2 (h.imp Nat.ne_of_lt)
  exact List.inj_on_of_nodup_map hn hx hr he

theorem recordAt_of_mem {u : RecordUnit} (h : u.records.Pairwise fun a b => a.slot < b.slot)
    {r : LineRecord} (hr : r ∈ u.records) : u.recordAt r.slot = some r := by
  cases hx : u.recordAt r.slot with
  | none => exact absurd rfl ((recordAt_eq_none_iff u r.slot).1 hx r hr)
  | some x =>
    obtain ⟨hm, hs⟩ := recordAt_spec hx
    rw [eq_of_slot_eq h hr hm hs]

/-- The same slots with the same keys, the same key index and the same ring. -/
structure SameSlots (u v : RecordUnit) : Prop where
  places : v.records.map LineRecord.place = u.records.map LineRecord.place
  index : v.index = u.index
  ring : v.ring = u.ring
  ringHead : v.ringHead = u.ringHead
  ringTail : v.ringTail = u.ringTail

theorem SameSlots.refl (u : RecordUnit) : SameSlots u u := ⟨rfl, rfl, rfl, rfl, rfl⟩

theorem SameSlots.trans {u v w : RecordUnit} (h : SameSlots u v) (k : SameSlots v w) :
    SameSlots u w :=
  ⟨k.places.trans h.places, k.index.trans h.index, k.ring.trans h.ring,
    k.ringHead.trans h.ringHead, k.ringTail.trans h.ringTail⟩

theorem SameTables.sameSlots {u v : RecordUnit} (h : SameTables u v) : SameSlots u v :=
  ⟨by rw [h.records], h.index, h.ring, h.ringHead, h.ringTail⟩

/-- A live record stands behind every slot and key of an unchanged table. -/
theorem SameSlots.exists_mem {u v : RecordUnit} (h : SameSlots u v) {r : LineRecord}
    (hr : r ∈ u.records) : ∃ x ∈ v.records, x.place = r.place := by
  have : r.place ∈ v.records.map LineRecord.place := h.places ▸ List.mem_map_of_mem hr
  exact List.mem_map.1 this

theorem SameSlots.symm {u v : RecordUnit} (h : SameSlots u v) : SameSlots v u :=
  ⟨h.places.symm, h.index.symm, h.ring.symm, h.ringHead.symm, h.ringTail.symm⟩

/-- A relation on slots and keys holds along the records of an unchanged table. -/
theorem SameSlots.pairwise {u v : RecordUnit} (h : SameSlots u v)
    {R : Nat × Nat × Nat → Nat × Nat × Nat → Prop}
    (hu : u.records.Pairwise fun a b => R a.place b.place) :
    v.records.Pairwise fun a b => R a.place b.place := by
  rw [← List.pairwise_map] at hu ⊢
  rw [h.places]
  exact hu

theorem SameSlots.slots_rise {u v : RecordUnit} (h : SameSlots u v)
    (hu : u.records.Pairwise fun a b => a.slot < b.slot) :
    v.records.Pairwise fun a b => a.slot < b.slot :=
  h.pairwise (R := fun a b => a.1 < b.1) hu

theorem place_eq_iff (r x : LineRecord) :
    x.place = r.place ↔ x.slot = r.slot ∧ x.site = r.site ∧ x.lineNo = r.lineNo := by
  simp [LineRecord.place]

theorem SameSlots.recordAt_none {u v : RecordUnit} (h : SameSlots u v) (n : Nat) :
    v.recordAt n = none ↔ u.recordAt n = none := by
  have half : ∀ {u v : RecordUnit}, SameSlots u v → u.recordAt n = none → v.recordAt n = none := by
    intro u v h hu
    rw [recordAt_eq_none_iff] at hu ⊢
    intro r hr
    obtain ⟨x, hx, hp⟩ := h.symm.exists_mem hr
    rw [← ((place_eq_iff r x).1 hp).1]
    exact hu x hx
  exact ⟨half h.symm, half h⟩

/-- The order of the table rests on slots, keys, index, ring and readiness alone. -/
theorem TableInv.congr {s t : State} (h : TableInv s) (hs : SameSlots s.unit t.unit)
    (hr : t.readiness = s.readiness) : TableInv t where
  slots_rise := hs.slots_rise h.slots_rise
  slots_range r hm := by
    obtain ⟨x, hx, hp⟩ := hs.symm.exists_mem hm
    rw [← ((place_eq_iff r x).1 hp).1]
    exact h.slots_range x hx
  keys_differ := hs.pairwise (R := fun a b => ¬(a.2.1 = b.2.1 ∧ a.2.2 = b.2.2)) h.keys_differ
  chains_nodup b := by
    rw [hs.index]
    exact h.chains_nodup b
  chains_hold b n := by
    rw [hs.index, h.chains_hold]
    constructor
    · rintro ⟨r, hm, hk⟩
      obtain ⟨x, hx, hp⟩ := hs.exists_mem hm
      obtain ⟨h1, h2, h3⟩ := (place_eq_iff r x).1 hp
      exact ⟨x, hx, by rwa [h1, h2, h3]⟩
    · rintro ⟨r, hm, hk⟩
      obtain ⟨x, hx, hp⟩ := hs.symm.exists_mem hm
      obtain ⟨h1, h2, h3⟩ := (place_eq_iff r x).1 hp
      exact ⟨x, hx, by rwa [h1, h2, h3]⟩
  ring_range := by
    rw [hs.ringHead, hs.ringTail]
    exact h.ring_range
  ring_nodup := by
    rw [heldSlots_congr hs.ring hs.ringHead hs.ringTail]
    exact h.ring_nodup
  ring_holds hready n := by
    rw [heldSlots_congr hs.ring hs.ringHead hs.ringTail, hs.recordAt_none]
    exact h.ring_holds (hr ▸ hready) n
  before_ready hinit := by
    obtain ⟨he, hring⟩ := h.before_ready (hr ▸ hinit)
    refine ⟨?_, by rw [hs.ringHead, hs.ringTail, hring]⟩
    have := hs.places
    rw [he] at this
    exact List.map_eq_nil_iff.1 this

/-! ## Work on a record keeps its slot and key -/

theorem CountsOnly.fields {u v : RecordUnit} (h : CountsOnly u v) :
    v.records = u.records ∧ v.index = u.index ∧ v.ring = u.ring ∧ v.ringHead = u.ringHead ∧
      v.ringTail = u.ringTail ∧ v.businessDay = u.businessDay ∧ v.freeze = u.freeze ∧
      v.sweep = u.sweep ∧ v.survey = u.survey ∧ v.arbiter = u.arbiter ∧
      v.inProgress = u.inProgress := by
  have := h.rest
  rw [← this]
  simp

theorem Worked.sameSlots {u : RecordUnit} {r : LineRecord} {t : Touch}
    (h : Worked (touch u r) t) (hu : u.records.Pairwise fun a b => a.slot < b.slot)
    (hr : r ∈ u.records) : SameSlots u t.commit := by
  have hf := h.frame_touch
  obtain ⟨_, hi, hring, hhead, htail, _⟩ := hf.unit.fields
  refine ⟨?_, hi, hring, hhead, htail⟩
  rw [h.commit_records, List.map_map]
  apply List.map_congr_left
  intro x hx
  simp only [Function.comp_apply]
  split
  · rename_i he
    rw [eq_of_slot_eq hu hr hx he]
    exact (place_eq_iff _ _).2 ⟨hf.line.slot, hf.line.site, hf.line.lineNo⟩
  · rfl

/-- What catching one live record up keeps, a walk that catches live records up in turn keeps. The
records it visits are those of the table it started from: none is changed before it is visited. -/
theorem walked_keeps {P : RecordUnit → Prop}
    (caughtUp : ∀ {v : RecordUnit} {r : LineRecord},
      (v.records.Pairwise fun a b => a.slot < b.slot) → r ∈ v.records → P v → P (touch v r).commit)
    {u : RecordUnit} (hu : u.records.Pairwise fun a b => a.slot < b.slot)
    {visited : List LineRecord} (hv : visited.Sublist u.records) (h : P u) :
    P (walked u visited) := by
  have hm : ∀ r ∈ visited, r ∈ u.records := fun r hr => hv.subset hr
  have hp := hu.sublist hv
  clear hv
  unfold walked
  induction visited generalizing u with
  | nil => exact h
  | cons r rest ih =>
    have hw : Worked (touch u r) (touch u r) := .read
    have hr := hm r List.mem_cons_self
    obtain ⟨hlt, hp'⟩ := List.pairwise_cons.1 hp
    refine ih ((hw.sameSlots hu hr).slots_rise hu) (caughtUp hu hr h) (fun x hx => ?_) hp'
    rw [hw.commit_records, List.mem_map]
    exact ⟨x, hm x (List.mem_cons_of_mem r hx), if_neg (Nat.ne_of_gt (hlt x hx))⟩

theorem walked_sameSlots {u : RecordUnit} (hu : u.records.Pairwise fun a b => a.slot < b.slot)
    {visited : List LineRecord} (hv : visited.Sublist u.records) : SameSlots u (walked u visited) :=
  walked_keeps (fun hp hm hs => hs.trans (Worked.sameSlots .read hp hm)) hu hv (.refl u)

/-! ## A new record (R11, R13, R20) -/

theorem insertRecord_perm (r : LineRecord) (l : List LineRecord) :
    (insertRecord r l).Perm (r :: l) := by
  induction l with
  | nil => exact .refl _
  | cons x xs ih =>
    unfold insertRecord
    split
    · exact .refl _
    · exact (ih.cons x).trans (.swap r x xs)

theorem insertRecord_slots_rise {r : LineRecord} {l : List LineRecord}
    (h : l.Pairwise fun a b => a.slot < b.slot) (hr : ∀ x ∈ l, x.slot ≠ r.slot) :
    (insertRecord r l).Pairwise fun a b => a.slot < b.slot := by
  induction l with
  | nil => exact List.pairwise_singleton _ _
  | cons x xs ih =>
    obtain ⟨hx, hxs⟩ := List.pairwise_cons.1 h
    unfold insertRecord
    split
    · rename_i hlt
      refine List.pairwise_cons.2 ⟨fun y hy => ?_, h⟩
      obtain rfl | hy := List.mem_cons.1 hy
      · exact hlt
      · exact hlt.trans (hx y hy)
    · rename_i hge
      refine List.pairwise_cons.2 ⟨fun y hy => ?_, ih hxs fun y hy =>
        hr y (List.mem_cons_of_mem x hy)⟩
      obtain rfl | hy := mem_insertRecord.1 hy
      · have := hr x List.mem_cons_self
        omega
      · exact hx y hy

/-- The chains after a slot was placed at the head of its key's. -/
theorem linkSlot_index (u : RecordUnit) (site lineNo slot : Nat) (b : Fin 1024) :
    (u.linkSlot site lineNo slot).index[b] =
      if bucketOf site lineNo = b then slot :: u.index[b] else u.index[b] := by
  simp only [RecordUnit.linkSlot, Fin.getElem_fin]
  rw [Vector.getElem_set]
  by_cases h : bucketOf site lineNo = b
  · simp [h]
  · have : (bucketOf site lineNo).val ≠ b.val := fun e => h (Fin.ext e)
    simp [h, this]

/-- The chains after a slot was removed from its key's. -/
theorem unlinkSlot_index (u : RecordUnit) (site lineNo slot : Nat) (b : Fin 1024) :
    (u.unlinkSlot site lineNo slot).index[b] =
      if bucketOf site lineNo = b then u.index[b].filter (· != slot) else u.index[b] := by
  simp only [RecordUnit.unlinkSlot, Fin.getElem_fin]
  rw [Vector.getElem_set]
  by_cases h : bucketOf site lineNo = b
  · simp [h]
  · have : (bucketOf site lineNo).val ≠ b.val := fun e => h (Fin.ext e)
    simp [h, this]

/-- A key that a lookup does not find is no live record's. -/
theorem TableInv.key_absent {s : State} (h : TableInv s) {site lineNo : Nat}
    (hn : s.unit.lookup site lineNo = none) :
    ∀ r ∈ s.unit.records, ¬(r.site = site ∧ r.lineNo = lineNo) := by
  rintro r hr ⟨rfl, rfl⟩
  have hmem : r.slot ∈ s.unit.index[bucketOf r.site r.lineNo] :=
    (h.chains_hold _ _).2 ⟨r, hr, rfl, rfl⟩
  have hat := recordAt_of_mem h.slots_rise hr
  have passes : ∀ chain : List Nat, r.slot ∈ chain →
      findInChain s.unit r.site r.lineNo chain ≠ none := by
    intro chain
    induction chain with
    | nil => exact fun hm => nomatch hm
    | cons n rest ih =>
      intro hm
      unfold findInChain
      obtain rfl | hm := List.mem_cons.1 hm
      · simp [hat]
      · split
        · split
          · simp
          · exact ih hm
        · exact ih hm
  exact passes _ hmem hn

/-- The slots, index and ring of a created record's Record Unit. -/
theorem createRecord_slots (u : RecordUnit) (r : LineRecord) :
    (createRecord u r).index = (u.linkSlot r.site r.lineNo r.slot).index ∧
      (createRecord u r).ring = u.ring ∧ (createRecord u r).ringHead = u.ringHead ∧
      (createRecord u r).ringTail = u.ringTail := by
  unfold createRecord
  cases r.lot <;> exact ⟨rfl, rfl, rfl, rfl⟩

/-- A table is READY once it has a slot to give. -/
theorem TableInv.ready_of_ring {s : State} (h : TableInv s)
    (hne : s.unit.ringHead ≠ s.unit.ringTail) : s.readiness = .ready := by
  cases hr : s.readiness with
  | initialising => exact absurd (h.before_ready hr).2 hne
  | ready => rfl

/-- A table is READY once it has a live record. -/
theorem TableInv.ready_of_mem {s : State} (h : TableInv s) {r : LineRecord}
    (hm : r ∈ s.unit.records) : s.readiness = .ready := by
  cases hr : s.readiness with
  | initialising =>
    rw [(h.before_ready hr).1] at hm
    exact nomatch hm
  | ready => rfl

theorem TableInv.created {s t : State} (h : TableInv s) {slot : Nat} {v : RecordUnit}
    (ht : s.unit.takeSlot = some (slot, v)) {r : LineRecord} (hslot : r.slot = slot)
    (hn : s.unit.lookup r.site r.lineNo = none) (hu : t.unit = createRecord v r)
    (hr : t.readiness = s.readiness) : TableInv t := by
  have held := heldSlots_takeSlot ht h.ring_range.1 h.ring_range.2
  obtain ⟨hi, hring, hhead, htail⟩ := createRecord_slots v r
  unfold RecordUnit.takeSlot at ht
  split at ht <;> cases ht
  rename_i hne
  have ready := h.ready_of_ring hne
  have hrecords : t.unit.records = insertRecord r s.unit.records := by
    rw [hu, createRecord_records]
  have hheld : t.unit.heldSlots =
      RecordUnit.heldSlots { s.unit with ringHead := (s.unit.ringHead + 1) % 4096 } := by
    rw [hu]
    exact heldSlots_congr hring hhead htail
  have hnodup := h.ring_nodup
  rw [held, List.nodup_cons] at hnodup
  obtain ⟨hfirst, hlast, habsent⟩ := (h.ring_holds ready _).1 (held ▸ List.mem_cons_self)
  rw [← hslot] at hfirst hlast habsent
  have hfree := (recordAt_eq_none_iff _ _).1 habsent
  have hkey := h.key_absent hn
  refine ⟨?_, ?_, ?_, fun b => ?_, fun b n => ?_, ?_, ?_, fun _ n => ?_, fun hinit => ?_⟩
  · rw [hrecords]
    exact insertRecord_slots_rise h.slots_rise hfree
  · intro x hx
    rw [hrecords, mem_insertRecord] at hx
    obtain rfl | hx := hx
    · exact ⟨hfirst, hlast⟩
    · exact h.slots_range x hx
  · rw [hrecords, (insertRecord_perm r s.unit.records).pairwise_iff
      fun hk hx => hk ⟨hx.1.symm, hx.2.symm⟩]
    exact List.pairwise_cons.2 ⟨fun x hx hk => hkey x hx ⟨hk.1.symm, hk.2.symm⟩, h.keys_differ⟩
  · rw [hu, hi, linkSlot_index]
    have hb := h.chains_nodup b
    split
    · refine List.nodup_cons.2 ⟨fun hm => ?_, hb⟩
      obtain ⟨x, hx, hs, _⟩ := (h.chains_hold b _).1 hm
      exact hfree x hx hs
    · exact hb
  · rw [hrecords]
    simp only [mem_insertRecord, exists_eq_or_imp]
    rw [← h.chains_hold b n, hu, hi, linkSlot_index]
    split
    · rename_i hb
      simp only [hb, and_true, List.mem_cons, eq_comm]
    · rename_i hb
      simp only [hb, and_false, false_or]
  · rw [hu, hhead, htail]
    exact ⟨Nat.mod_lt _ (by decide), h.ring_range.2⟩
  · rw [hheld]
    exact hnodup.2
  · have hold := h.ring_holds ready n
    rw [held, List.mem_cons, recordAt_eq_none_iff] at hold
    rw [hheld, recordAt_eq_none_iff, hrecords]
    simp only [mem_insertRecord, forall_eq_or_imp]
    rw [hslot]
    constructor
    · intro hm
      obtain ⟨h1, h2, h3⟩ := hold.1 (.inr hm)
      exact ⟨h1, h2, fun he => hnodup.1 (he ▸ hm), h3⟩
    · rintro ⟨h1, h2, h3, h4⟩
      exact (hold.2 ⟨h1, h2, h4⟩).resolve_left fun he => h3 he.symm
  · rw [hr, ready] at hinit
    cases hinit

/-! ## A retired record (R13, R22) -/

/-- The slots, index and ring of a retired record's Record Unit. -/
theorem retireRecord_slots (u : RecordUnit) (r : LineRecord) :
    (retireRecord u r).index = (u.unlinkSlot r.site r.lineNo r.slot).index ∧
      (retireRecord u r).ring = (u.returnSlot r.slot).ring ∧
      (retireRecord u r).ringHead = u.ringHead ∧
      (retireRecord u r).ringTail = (u.returnSlot r.slot).ringTail := by
  obtain ⟨_, hi, hring, hhead, htail, _⟩ := (countsOnly_retireCounts u r).fields
  unfold retireRecord RecordUnit.unlinkSlot RecordUnit.returnSlot RecordUnit.dropRecord
  dsimp only
  rw [hi, hring, hhead, htail]
  exact ⟨rfl, rfl, rfl, rfl⟩

/-- With a live record the ring is not full. -/
theorem TableInv.freeCount_lt {s : State} (h : TableInv s) {r : LineRecord}
    (hr : r ∈ s.unit.records) : s.unit.freeCount < 4095 := by
  have ready := h.ready_of_mem hr
  have hnot : r.slot ∉ s.unit.heldSlots := fun hm =>
    (recordAt_eq_none_iff _ _).1 ((h.ring_holds ready _).1 hm).2.2 r hr rfl
  have hsub : r.slot :: s.unit.heldSlots ⊆ List.range' 1 4095 := by
    intro n hn
    rw [List.mem_range'_1]
    obtain rfl | hn := List.mem_cons.1 hn
    · have := h.slots_range r hr
      unfold lastSlot at this
      omega
    · obtain ⟨h1, h2, _⟩ := (h.ring_holds ready n).1 hn
      unfold lastSlot at h2
      omega
  have hlen := (List.subperm_of_subset (List.nodup_cons.2 ⟨hnot, h.ring_nodup⟩) hsub).length_le
  rw [List.length_cons, heldSlots_length, List.length_range'] at hlen
  omega

theorem TableInv.retired {s t : State} (h : TableInv s) {r x : LineRecord} {u : RecordUnit}
    (hr : r ∈ s.unit.records) (hx : x.place = r.place) (hc : CountsOnly s.unit u)
    (hu : t.unit = retireRecord u x) (hready : t.readiness = s.readiness) : TableInv t := by
  obtain ⟨hslot, hsite, hline⟩ := (place_eq_iff r x).1 hx
  obtain ⟨hrec, hidx, hring, hhead, htail, _⟩ := hc.fields
  obtain ⟨hi', hring', hhead', htail'⟩ := retireRecord_slots u x
  have ready := h.ready_of_mem hr
  have hrecords : t.unit.records = s.unit.records.filter fun y => y.slot != r.slot := by
    rw [hu, retireRecord_records, hrec, hslot]
  have hindex : ∀ b : Fin 1024, t.unit.index[b] =
      if bucketOf r.site r.lineNo = b then s.unit.index[b].filter (· != r.slot)
      else s.unit.index[b] := by
    intro b
    rw [hu, hi', unlinkSlot_index, hidx, hslot, hsite, hline]
  have hmem : ∀ y, y ∈ t.unit.records ↔ y ∈ s.unit.records ∧ y.slot ≠ r.slot := by
    intro y
    rw [hrecords, List.mem_filter, bne_iff_ne]
  have hheld : t.unit.heldSlots = s.unit.heldSlots ++ [r.slot] := by
    rw [← heldSlots_returnSlot r.slot (h.freeCount_lt hr) h.ring_range.1 h.ring_range.2, hu]
    refine heldSlots_congr ?_ ?_ ?_
    · rw [hring', hslot]
      unfold RecordUnit.returnSlot
      rw [hring, htail]
    · rw [hhead', hhead]
      rfl
    · rw [htail']
      unfold RecordUnit.returnSlot
      rw [htail]
  have hnot : r.slot ∉ s.unit.heldSlots := fun hm =>
    (recordAt_eq_none_iff _ _).1 ((h.ring_holds ready _).1 hm).2.2 r hr rfl
  refine ⟨?_, ?_, ?_, fun b => ?_, fun b n => ?_, ?_, ?_, fun _ n => ?_, fun hinit => ?_⟩
  · rw [hrecords]
    exact h.slots_rise.sublist List.filter_sublist
  · exact fun y hy => h.slots_range y ((hmem y).1 hy).1
  · rw [hrecords]
    exact h.keys_differ.sublist List.filter_sublist
  · rw [hindex]
    split
    · exact (h.chains_nodup b).filter _
    · exact h.chains_nodup b
  · have hold := h.chains_hold b n
    rw [hindex]
    constructor
    · intro hn
      have hne : n ∈ s.unit.index[b] ∧ n ≠ r.slot := by
        split at hn
        · rw [List.mem_filter, bne_iff_ne] at hn
          exact hn
        · rename_i hb
          refine ⟨hn, fun he => hb ?_⟩
          obtain ⟨y, hy, hys, hyb⟩ := hold.1 hn
          rwa [eq_of_slot_eq h.slots_rise hr hy (hys.trans he)] at hyb
      obtain ⟨y, hy, hys, hyb⟩ := hold.1 hne.1
      exact ⟨y, (hmem y).2 ⟨hy, hys ▸ hne.2⟩, hys, hyb⟩
    · rintro ⟨y, hy, hys, hyb⟩
      obtain ⟨hy, hne⟩ := (hmem y).1 hy
      have hn := hold.2 ⟨y, hy, hys, hyb⟩
      split
      · rw [List.mem_filter, bne_iff_ne]
        exact ⟨hn, hys ▸ hne⟩
      · exact hn
  · rw [hu, hhead', htail', hhead]
    exact ⟨h.ring_range.1, Nat.mod_lt _ (by decide)⟩
  · rw [hheld]
    exact List.nodup_append.2 ⟨h.ring_nodup, List.nodup_singleton _, fun a ha b hb hab =>
      hnot (by rw [← List.mem_singleton.1 hb, ← hab]; exact ha)⟩
  · have hold := h.ring_holds ready n
    rw [recordAt_eq_none_iff] at hold
    rw [hheld, recordAt_eq_none_iff, List.mem_append, List.mem_singleton, hold]
    constructor
    · rintro (⟨h1, h2, h3⟩ | rfl)
      · exact ⟨h1, h2, fun y hy => h3 y ((hmem y).1 hy).1⟩
      · exact ⟨(h.slots_range r hr).1, (h.slots_range r hr).2, fun y hy => ((hmem y).1 hy).2⟩
    · rintro ⟨h1, h2, h3⟩
      by_cases he : n = r.slot
      · exact .inr he
      · refine .inl ⟨h1, h2, fun y hy hn => h3 y ((hmem y).2 ⟨hy, ?_⟩) hn⟩
        rwa [hn]
  · rw [hready, ready] at hinit
    cases hinit

/-! ## Start-up, and every step -/

theorem tableInv_reset {s : State} (hu : s.unit = RecordUnit.reset)
    (hr : s.readiness = .initialising) : TableInv s := by
  have hheld : s.unit.heldSlots = [] := by rw [hu]; rfl
  have hrec : s.unit.records = [] := by rw [hu]; rfl
  have hidx : ∀ b : Fin 1024, s.unit.index[b] = [] := fun b => by
    rw [hu]
    simp [RecordUnit.reset]
  refine ⟨by simp [hrec], by simp [hrec], by simp [hrec], fun b => by simp [hidx],
    fun b n => by simp [hidx, hrec], ?_, by simp [hheld], fun hready => ?_, fun _ => ⟨hrec, ?_⟩⟩
  · rw [hu]
    exact ⟨by decide, by decide⟩
  · rw [hr] at hready
    cases hready
  · rw [hu]
    rfl

theorem TableInv.initialised {s t : State} (h : TableInv s) (hs : s.readiness = .initialising)
    {old : Nat}
    (hu : t.unit =
      { s.unit with
        records := []
        ring := filledRing old
        ringHead := 0
        ringTail := 4095 })
    (hr : t.readiness = .ready) : TableInv t := by
  have hrec : t.unit.records = [] := by rw [hu]
  have hheld : t.unit.heldSlots = List.range' 1 4095 :=
    heldSlots_filled (old := old) (n := 0) (by rw [hu]) (by rw [hu]) (by rw [hu]) (by decide)
  have hidx : ∀ b : Fin 1024, t.unit.index[b] = [] := by
    intro b
    rw [hu, List.eq_nil_iff_forall_not_mem]
    intro n hn
    obtain ⟨r, hm, _⟩ := (h.chains_hold b n).1 hn
    rw [(h.before_ready hs).1] at hm
    exact nomatch hm
  refine ⟨by simp [hrec], by simp [hrec], by simp [hrec], fun b => by simp [hidx],
    fun b n => by simp [hidx, hrec], ?_, ?_, fun _ n => ?_, fun hinit => ?_⟩
  · rw [hu]
    show 0 < 4096 ∧ 4095 < 4096
    decide
  · rw [hheld]
    exact List.nodup_range'
  · rw [hheld, List.mem_range'_1, recordAt_eq_none_iff, hrec]
    simp only [List.not_mem_nil, false_imp_iff, implies_true, and_true, lastSlot]
    omega
  · rw [hr] at hinit
    cases hinit

/-- Every work of the Record Unit keeps slots, chains and ring in order. -/
theorem Effect.table {s t : State} (he : Effect s.unit t.unit) (h : TableInv s)
    (hr : t.readiness = s.readiness) : TableInv t := by
  generalize hv : t.unit = v at he
  have same : SameSlots s.unit v → TableInv t := fun hs => h.congr (hv ▸ hs) hr
  cases he with
  | stands => exact same (.refl _)
  | worked hm hw => exact same (hw.sameSlots h.slots_rise hm)
  | created region ht hn => exact h.created ht rfl hn hv hr
  | @retired r hm =>
    have hf := (touch_kept s.unit r).workFrame
    exact h.retired hm ((place_eq_iff _ _).2 ⟨hf.line.slot, hf.line.site, hf.line.lineNo⟩)
      hf.unit hv hr
  | scanned hvis => exact same (walked_sameSlots h.slots_rise hvis)
  | profileWritten | profilesFrozen | lotAdded | lotWithdrawn | lotRemoved | holdSet | dayClosed
  | surveyStarted | surveyStopped => exact same ⟨rfl, rfl, rfl, rfl, rfl⟩

theorem UnitMove.table {s t : State} (hm : UnitMove s t) (h : TableInv s) : TableInv t := by
  cases hm with
  | worked v he hv hr =>
    have hw : TableInv { s with unit := v } := Effect.table (t := { s with unit := v }) he h rfl
    exact hw.congr hv.sameSlots hr
  | initialised hs hu hr => exact h.initialised hs hu hr

theorem tableInv_kept : KeptByActions TableInv where
  queue _ _ h := h.congr (.refl _) rfl
  sent s h := h.congr (by rw [State.sendOldest_unit]; exact .refl _) (by simp)
  settled before s h := h.congr (by rw [settle_unit]; exact .refl _) (by simp)
  cold held s := tableInv_reset rfl rfl
  acts _ _ _ ha h := ha.unitMove.table h

/-- Settles O58: a record's slot and key never change, and CREATE_LINE and RETIRE_LINE move one slot
between the ring's ends and the table. -/
theorem stepKeepsSlotsChainsAndRing : Obligations.StepKeepsSlotsChainsAndRing :=
  fun _ _ hs h => tableInv_kept.step h hs

end Sys2Proof.Machine
end

section
/-! The counts kept beside the records: each table's counts against the list of live records, what
every work on a record does to both, and the counts kept exact by every step. -/

namespace Sys2Proof.Machine

open Sys2Proof

/-! ## Counts against a list of records -/

/-- 1 where an entry is the one a record names, 0 where it is another or the record names none. -/
def hits {n : Nat} (key : Option (Fin n)) (i : Fin n) : Nat := if key = some i then 1 else 0

@[simp] theorem hits_none {n : Nat} (i : Fin n) : hits none i = 0 := by
  simp [hits]

/-- Counts of a table that are what a list of records makes them, each record naming at most one
entry. -/
def Tallies {n : Nat} (count : Fin n → Nat) (key : LineRecord → Option (Fin n))
    (l : List LineRecord) : Prop :=
  ∀ i, count i = l.countP fun r => key r == some i

theorem countP_key_cons {n : Nat} (key : LineRecord → Option (Fin n)) (r : LineRecord)
    (l : List LineRecord) (i : Fin n) :
    ((r :: l).countP fun r => key r == some i) =
      (l.countP fun r => key r == some i) + hits (key r) i := by
  simp [List.countP_cons, hits]

theorem Tallies.perm {n : Nat} {count : Fin n → Nat} {key : LineRecord → Option (Fin n)}
    {l l' : List LineRecord} (h : Tallies count key l) (hp : l.Perm l') : Tallies count key l' :=
  fun i => (h i).trans (hp.countP_eq _)

/-- A count that follows from what a record named, `k`, to what it names now, `k'`. -/
def Follows (before after k k' : Nat) : Prop := k ≤ before → after + k = before + k'

theorem Follows.refl (before k : Nat) : Follows before before k k := fun _ => rfl

theorem Tallies.rekey {n : Nat} {count count' : Fin n → Nat} {key : LineRecord → Option (Fin n)}
    {r r' : LineRecord} {l : List LineRecord} (h : Tallies count key (r :: l))
    (hf : ∀ i, Follows (count i) (count' i) (hits (key r) i) (hits (key r') i)) :
    Tallies count' key (r' :: l) := by
  intro i
  have hi := h i
  have := hf i
  rw [countP_key_cons] at hi ⊢
  unfold Follows at this
  omega

/-- A record added to the list. -/
theorem Tallies.push {n : Nat} {count count' : Fin n → Nat} {key : LineRecord → Option (Fin n)}
    {r : LineRecord} {l : List LineRecord} (h : Tallies count key l)
    (hf : ∀ i, count' i = count i + hits (key r) i) : Tallies count' key (r :: l) := by
  intro i
  rw [countP_key_cons, hf, h i]

/-- A record removed from the list. -/
theorem Tallies.pop {n : Nat} {count count' : Fin n → Nat} {key : LineRecord → Option (Fin n)}
    {r : LineRecord} {l : List LineRecord} (h : Tallies count key (r :: l))
    (hf : ∀ i, count' i = count i - hits (key r) i) : Tallies count' key l := by
  intro i
  have hi := h i
  rw [countP_key_cons] at hi
  rw [hf]
  omega

/-- The region that counts a record's attention bit. -/
def LineRecord.attentionRegion (r : LineRecord) : Option (Fin 64) :=
  if r.attention then some r.region else none

/-- The five counts of the tables are what a list of records makes them (R27, R37, R42). -/
structure Tallied (u : RecordUnit) (l : List LineRecord) : Prop where
  profile_use : Tallies (fun i => u.profiles[i].useCount) (fun r => some r.profile) l
  region_live : Tallies (fun i => u.regions[i].liveCount) (fun r => some r.region) l
  region_attention :
    Tallies (fun i => u.regions[i].attentionCount) LineRecord.attentionRegion l
  lot_current : Tallies (fun i => u.lots[i].currentUsers) LineRecord.lot l
  lot_incoming : Tallies (fun i => u.lots[i].incomingUsers) LineRecord.incomingLot l

theorem Tallied.perm {u : RecordUnit} {l l' : List LineRecord} (h : Tallied u l)
    (hp : l.Perm l') : Tallied u l' :=
  ⟨h.profile_use.perm hp, h.region_live.perm hp, h.region_attention.perm hp,
    h.lot_current.perm hp, h.lot_incoming.perm hp⟩

/-- Tables that moved every count from what a record named to what it names now. -/
structure TablesFollow (u v : RecordUnit) (r r' : LineRecord) : Prop where
  profile_use : ∀ i : Fin 32, Follows u.profiles[i].useCount v.profiles[i].useCount
    (hits (some r.profile) i) (hits (some r'.profile) i)
  region_live : ∀ i : Fin 64, Follows u.regions[i].liveCount v.regions[i].liveCount
    (hits (some r.region) i) (hits (some r'.region) i)
  region_attention : ∀ i : Fin 64,
    Follows u.regions[i].attentionCount v.regions[i].attentionCount
      (hits r.attentionRegion i) (hits r'.attentionRegion i)
  lot_current : ∀ i : Fin 64, Follows u.lots[i].currentUsers v.lots[i].currentUsers
    (hits r.lot i) (hits r'.lot i)
  lot_incoming : ∀ i : Fin 64, Follows u.lots[i].incomingUsers v.lots[i].incomingUsers
    (hits r.incomingLot i) (hits r'.incomingLot i)

theorem Tallied.follow {u v : RecordUnit} {r r' : LineRecord} {l : List LineRecord}
    (h : Tallied u (r :: l)) (hf : TablesFollow u v r r') : Tallied v (r' :: l) :=
  ⟨h.profile_use.rekey hf.profile_use, h.region_live.rekey hf.region_live,
    h.region_attention.rekey hf.region_attention, h.lot_current.rekey hf.lot_current,
    h.lot_incoming.rekey hf.lot_incoming⟩

/-- What a record names in the tables. -/
structure SameNames (r r' : LineRecord) : Prop where
  profile : r'.profile = r.profile
  region : r'.region = r.region
  attention : r'.attention = r.attention
  lot : r'.lot = r.lot
  incoming : r'.incomingLot = r.incomingLot

theorem SameNames.follow {r r' : LineRecord} (h : SameNames r r') (u : RecordUnit) :
    TablesFollow u u r r' := by
  obtain ⟨hp, hr, ha, hl, hi⟩ := h
  refine ⟨fun i => ?_, fun i => ?_, fun i => ?_, fun i => ?_, fun i => ?_⟩
  · rw [hp]; exact .refl _ _
  · rw [hr]; exact .refl _ _
  · unfold LineRecord.attentionRegion
    rw [hr, ha]; exact .refl _ _
  · rw [hl]; exact .refl _ _
  · rw [hi]; exact .refl _ _

/-! ## The count operations, entry by entry -/

theorem hits_some {n : Nat} (i j : Fin n) : hits (some i) j = if i = j then 1 else 0 := by
  simp [hits]

@[simp] theorem addProfileUse_useCount (u : RecordUnit) (i j : Fin 32) :
    (addProfileUse u i).profiles[j].useCount = u.profiles[j].useCount + hits (some i) j := by
  rw [addProfileUse, modifyProfile_profiles, hits_some]
  split <;> simp_all

@[simp] theorem dropProfileUse_useCount (u : RecordUnit) (i j : Fin 32) :
    (dropProfileUse u i).profiles[j].useCount = u.profiles[j].useCount - hits (some i) j := by
  rw [dropProfileUse, modifyProfile_profiles, hits_some]
  split <;> simp_all

/-- A field of a lot's entry that the change leaves alone. -/
theorem modifyLot_kept (count : Lot → Nat) (u : RecordUnit) (i j : Fin 64) {f : Lot → Lot}
    (hf : ∀ x, count (f x) = count x) :
    count (u.modifyLot i f).lots[j] = count u.lots[j] := by
  rw [modifyLot_lots]
  split
  · subst j; exact hf _
  · rfl

/-- A field of a lot's entry that the change adds 1 to. -/
theorem modifyLot_added (count : Lot → Nat) (u : RecordUnit) (i j : Fin 64) {f : Lot → Lot}
    (hf : ∀ x, count (f x) = count x + 1) :
    count (u.modifyLot i f).lots[j] = count u.lots[j] + hits (some i) j := by
  rw [modifyLot_lots, hits_some]
  split
  · subst j; exact hf _
  · rfl

/-- A field of a lot's entry that the change takes 1 from. -/
theorem modifyLot_dropped (count : Lot → Nat) (u : RecordUnit) (i j : Fin 64) {f : Lot → Lot}
    (hf : ∀ x, count (f x) = count x - 1) :
    count (u.modifyLot i f).lots[j] = count u.lots[j] - hits (some i) j := by
  rw [modifyLot_lots, hits_some]
  split
  · subst j; exact hf _
  · rfl

/-- A field of a region's entry that the change leaves alone. -/
theorem modifyRegion_kept (count : Region → Nat) (u : RecordUnit) (i j : Fin 64) {f : Region → Region}
    (hf : ∀ x, count (f x) = count x) :
    count (u.modifyRegion i f).regions[j] = count u.regions[j] := by
  rw [modifyRegion_regions]
  split
  · subst j; exact hf _
  · rfl

/-- A field of a region's entry that the change adds 1 to. -/
theorem modifyRegion_added (count : Region → Nat) (u : RecordUnit) (i j : Fin 64) {f : Region → Region}
    (hf : ∀ x, count (f x) = count x + 1) :
    count (u.modifyRegion i f).regions[j] = count u.regions[j] + hits (some i) j := by
  rw [modifyRegion_regions, hits_some]
  split
  · subst j; exact hf _
  · rfl

/-- A field of a region's entry that the change takes 1 from. -/
theorem modifyRegion_dropped (count : Region → Nat) (u : RecordUnit) (i j : Fin 64) {f : Region → Region}
    (hf : ∀ x, count (f x) = count x - 1) :
    count (u.modifyRegion i f).regions[j] = count u.regions[j] - hits (some i) j := by
  rw [modifyRegion_regions, hits_some]
  split
  · subst j; exact hf _
  · rfl

@[simp] theorem addCurrentUser_currentUsers (u : RecordUnit) (i j : Fin 64) :
    (addCurrentUser u i).lots[j].currentUsers = u.lots[j].currentUsers + hits (some i) j :=
  modifyLot_added Lot.currentUsers u i j fun _ => rfl

@[simp] theorem addCurrentUser_incomingUsers (u : RecordUnit) (i j : Fin 64) :
    (addCurrentUser u i).lots[j].incomingUsers = u.lots[j].incomingUsers :=
  modifyLot_kept Lot.incomingUsers u i j fun _ => rfl

@[simp] theorem dropCurrentUser_currentUsers (u : RecordUnit) (i j : Fin 64) :
    (dropCurrentUser u i).lots[j].currentUsers = u.lots[j].currentUsers - hits (some i) j :=
  modifyLot_dropped Lot.currentUsers u i j fun _ => rfl

@[simp] theorem dropCurrentUser_incomingUsers (u : RecordUnit) (i j : Fin 64) :
    (dropCurrentUser u i).lots[j].incomingUsers = u.lots[j].incomingUsers :=
  modifyLot_kept Lot.incomingUsers u i j fun _ => rfl

@[simp] theorem addIncomingUser_incomingUsers (u : RecordUnit) (i j : Fin 64) :
    (addIncomingUser u i).lots[j].incomingUsers = u.lots[j].incomingUsers + hits (some i) j :=
  modifyLot_added Lot.incomingUsers u i j fun _ => rfl

@[simp] theorem addIncomingUser_currentUsers (u : RecordUnit) (i j : Fin 64) :
    (addIncomingUser u i).lots[j].currentUsers = u.lots[j].currentUsers :=
  modifyLot_kept Lot.currentUsers u i j fun _ => rfl

@[simp] theorem dropIncomingUser_incomingUsers (u : RecordUnit) (i j : Fin 64) :
    (dropIncomingUser u i).lots[j].incomingUsers = u.lots[j].incomingUsers - hits (some i) j :=
  modifyLot_dropped Lot.incomingUsers u i j fun _ => rfl

@[simp] theorem dropIncomingUser_currentUsers (u : RecordUnit) (i j : Fin 64) :
    (dropIncomingUser u i).lots[j].currentUsers = u.lots[j].currentUsers :=
  modifyLot_kept Lot.currentUsers u i j fun _ => rfl

@[simp] theorem addLive_liveCount (u : RecordUnit) (i j : Fin 64) :
    (addLive u i).regions[j].liveCount = u.regions[j].liveCount + hits (some i) j :=
  modifyRegion_added Region.liveCount u i j fun _ => rfl

@[simp] theorem addLive_attentionCount (u : RecordUnit) (i j : Fin 64) :
    (addLive u i).regions[j].attentionCount = u.regions[j].attentionCount :=
  modifyRegion_kept Region.attentionCount u i j fun _ => rfl

@[simp] theorem dropLive_liveCount (u : RecordUnit) (i j : Fin 64) :
    (dropLive u i).regions[j].liveCount = u.regions[j].liveCount - hits (some i) j :=
  modifyRegion_dropped Region.liveCount u i j fun _ => rfl

@[simp] theorem dropLive_attentionCount (u : RecordUnit) (i j : Fin 64) :
    (dropLive u i).regions[j].attentionCount = u.regions[j].attentionCount :=
  modifyRegion_kept Region.attentionCount u i j fun _ => rfl

@[simp] theorem addAttention_attentionCount (u : RecordUnit) (i j : Fin 64) :
    (addAttention u i).regions[j].attentionCount = u.regions[j].attentionCount + hits (some i) j :=
  modifyRegion_added Region.attentionCount u i j fun _ => rfl

@[simp] theorem addAttention_liveCount (u : RecordUnit) (i j : Fin 64) :
    (addAttention u i).regions[j].liveCount = u.regions[j].liveCount :=
  modifyRegion_kept Region.liveCount u i j fun _ => rfl

@[simp] theorem dropAttention_attentionCount (u : RecordUnit) (i j : Fin 64) :
    (dropAttention u i).regions[j].attentionCount = u.regions[j].attentionCount - hits (some i) j :=
  modifyRegion_dropped Region.attentionCount u i j fun _ => rfl

@[simp] theorem dropAttention_liveCount (u : RecordUnit) (i j : Fin 64) :
    (dropAttention u i).regions[j].liveCount = u.regions[j].liveCount :=
  modifyRegion_kept Region.liveCount u i j fun _ => rfl

/-! ## Counts that follow a record's work -/

/-- A touched record whose tables' counts count it and the others. -/
def Counted (rest : List LineRecord) (t : Touch) : Prop := Tallied t.unit (t.line :: rest)

theorem Counted.follow {rest : List LineRecord} {t t' : Touch} (h : Counted rest t)
    (hf : TablesFollow t.unit t'.unit t.line t'.line) : Counted rest t' :=
  Tallied.follow h hf

theorem Counted.sameNames {rest : List LineRecord} {t : Touch} (h : Counted rest t)
    {f : LineRecord → LineRecord} (hn : SameNames t.line (f t.line)) :
    Counted rest (t.mapLine f) :=
  h.follow (hn.follow t.unit)

theorem Counted.bumpVersion {rest : List LineRecord} {t : Touch} (h : Counted rest t) :
    Counted rest t.bumpVersion :=
  h.sameNames ⟨rfl, rfl, rfl, rfl, rfl⟩

theorem attentionRegion_of_true {r : LineRecord} (h : r.attention = true) :
    r.attentionRegion = some r.region := by
  simp [LineRecord.attentionRegion, h]

theorem attentionRegion_of_false {r : LineRecord} (h : r.attention = false) :
    r.attentionRegion = none := by
  simp [LineRecord.attentionRegion, h]

/-- The region's attention count follows the bit (R133). -/
theorem Counted.recomputeAttention {rest : List LineRecord} {t : Touch} (h : Counted rest t) :
    Counted rest t.recomputeAttention := by
  unfold Touch.recomputeAttention
  split
  · exact h
  rename_i hne
  split
  · rename_i hw
    have hb : t.line.attention = false := by simpa [hw] using hne
    refine h.follow ⟨fun _ => .refl _ _, fun i => ?_, fun i => ?_, fun _ => .refl _ _,
      fun _ => .refl _ _⟩
    · rw [addAttention_liveCount]
      exact .refl _ _
    · rw [attentionRegion_of_false hb, attentionRegion_of_true rfl, addAttention_attentionCount,
        hits_none]
      exact fun _ => rfl
  · rename_i hw
    have hb : t.line.attention = true := by simpa [hw] using hne
    refine h.follow ⟨fun _ => .refl _ _, fun i => ?_, fun i => ?_, fun _ => .refl _ _,
      fun _ => .refl _ _⟩
    · rw [dropAttention_liveCount]
      exact .refl _ _
    · rw [attentionRegion_of_true hb, attentionRegion_of_false rfl, dropAttention_attentionCount,
        hits_none]
      exact fun hk => Nat.sub_add_cancel hk

/-- The use counts follow the profile number (R27). -/
theorem Counted.moveProfile {rest : List LineRecord} {t : Touch} (h : Counted rest t)
    (profile : Fin 32) : Counted rest (t.moveProfile profile) := by
  unfold Touch.moveProfile
  split
  · exact h
  · refine h.follow ⟨fun i => ?_, fun _ => .refl _ _, fun _ => .refl _ _, fun _ => .refl _ _,
      fun _ => .refl _ _⟩
    rw [addProfileUse_useCount, dropProfileUse_useCount]
    intro hk
    dsimp only
    omega

/-- The live and attention counts follow the region (R23). -/
theorem Counted.moveRegion {rest : List LineRecord} {t : Touch} (h : Counted rest t)
    (region : Fin 64) : Counted rest (t.moveRegion region) := by
  unfold Touch.moveRegion
  split
  · exact h
  dsimp only
  split
  · rename_i hb
    refine h.follow ⟨fun _ => .refl _ _, fun i => ?_, fun i => ?_, fun _ => .refl _ _,
      fun _ => .refl _ _⟩
    · simp only [addAttention_liveCount, dropAttention_liveCount, addLive_liveCount,
        dropLive_liveCount]
      intro hk
      omega
    · rw [attentionRegion_of_true hb,
        attentionRegion_of_true (r := { t.line with region := region }) hb]
      simp only [addAttention_attentionCount, dropAttention_attentionCount,
        addLive_attentionCount, dropLive_attentionCount]
      intro hk
      omega
  · rename_i hb
    have hb : t.line.attention = false := by simpa using hb
    refine h.follow ⟨fun _ => .refl _ _, fun i => ?_, fun i => ?_, fun _ => .refl _ _,
      fun _ => .refl _ _⟩
    · simp only [addLive_liveCount, dropLive_liveCount]
      intro hk
      omega
    · rw [attentionRegion_of_false hb,
        attentionRegion_of_false (r := { t.line with region := region }) hb,
        addLive_attentionCount, dropLive_attentionCount]
      exact .refl _ _

/-- The current-user counts follow the lot of SET_LINE_LOT (R37, R131). -/
theorem Counted.setLot {rest : List LineRecord} {t : Touch} (h : Counted rest t) (lot : Fin 64) :
    Counted rest ((t.moveLotCounts lot).mapLine (·.setLot lot)) := by
  unfold Touch.moveLotCounts
  split
  · rename_i hl
    refine h.follow ⟨fun _ => .refl _ _, fun _ => .refl _ _, fun _ => .refl _ _, fun i => ?_,
      fun i => ?_⟩
    · show Follows _ (addCurrentUser t.unit lot).lots[i].currentUsers _ (hits (some lot) i)
      rw [hl, addCurrentUser_currentUsers, hits_none]
      exact fun _ => rfl
    · show Follows _ (addCurrentUser t.unit lot).lots[i].incomingUsers _ (hits t.line.incomingLot i)
      rw [addCurrentUser_incomingUsers]
      exact .refl _ _
  · rename_i old hl
    split
    · rename_i he
      refine h.sameNames ⟨rfl, rfl, rfl, ?_, rfl⟩
      rw [hl, he]
      rfl
    · refine h.follow ⟨fun _ => .refl _ _, fun _ => .refl _ _, fun _ => .refl _ _, fun i => ?_,
        fun i => ?_⟩
      · show Follows _ (addCurrentUser (dropCurrentUser t.unit old) lot).lots[i].currentUsers _
          (hits (some lot) i)
        rw [hl, addCurrentUser_currentUsers, dropCurrentUser_currentUsers]
        intro hk
        omega
      · show Follows _ (addCurrentUser (dropCurrentUser t.unit old) lot).lots[i].incomingUsers _
          (hits t.line.incomingLot i)
        rw [addCurrentUser_incomingUsers, dropCurrentUser_incomingUsers]
        exact .refl _ _

theorem incomingLot_none {r : LineRecord} (h : r.crossover = none) : r.incomingLot = none := by
  simp [LineRecord.incomingLot, h]

theorem incomingLot_some {r : LineRecord} {x : Crossover} (h : r.crossover = some x) :
    r.incomingLot = some x.incoming := by
  simp [LineRecord.incomingLot, h]

/-- The incoming-user count follows the opening of a crossover (R118). -/
theorem Counted.openCrossover {rest : List LineRecord} {t : Touch} (h : Counted rest t)
    (hx : t.line.crossover = none) (lot : Fin 64) (required : Nat) :
    Counted rest ((t.mapLine (·.openCrossover lot required)).mapUnit (addIncomingUser · lot)) := by
  refine h.follow ⟨fun _ => .refl _ _, fun _ => .refl _ _, fun _ => .refl _ _, fun i => ?_,
    fun i => ?_⟩
  · show Follows _ (addIncomingUser t.unit lot).lots[i].currentUsers _ (hits t.line.lot i)
    rw [addIncomingUser_currentUsers]
    exact .refl _ _
  · show Follows _ (addIncomingUser t.unit lot).lots[i].incomingUsers _ (hits (some lot) i)
    rw [incomingLot_none hx, addIncomingUser_incomingUsers, hits_none]
    exact fun _ => rfl

/-- The incoming-user count follows the dropping of a crossover (R105, R125, R127). -/
theorem Counted.dropCrossover {rest : List LineRecord} {t : Touch} {x : Crossover}
    (h : Counted rest t) (hx : t.line.crossover = some x) {f : LineRecord → LineRecord}
    (hp : (f t.line).profile = t.line.profile) (hr : (f t.line).region = t.line.region)
    (ha : (f t.line).attention = t.line.attention) (hl : (f t.line).lot = t.line.lot)
    (hn : (f t.line).crossover = none) :
    Counted rest ((t.mapUnit (dropIncomingUser · x.incoming)).mapLine f) := by
  refine h.follow ⟨fun i => ?_, fun i => ?_, fun i => ?_, fun i => ?_, fun i => ?_⟩
  · rw [Touch.mapLine_line, Touch.mapUnit_line, hp]
    exact .refl _ _
  · rw [Touch.mapLine_line, Touch.mapUnit_line, hr]
    exact .refl _ _
  · rw [Touch.mapLine_line, Touch.mapUnit_line, LineRecord.attentionRegion,
      LineRecord.attentionRegion, ha, hr]
    exact .refl _ _
  · show Follows _ (dropIncomingUser t.unit x.incoming).lots[i].currentUsers _
      (hits (f t.line).lot i)
    rw [hl, dropIncomingUser_currentUsers]
    exact .refl _ _
  · show Follows _ (dropIncomingUser t.unit x.incoming).lots[i].incomingUsers _
      (hits (f t.line).incomingLot i)
    rw [incomingLot_some hx, incomingLot_none hn, dropIncomingUser_incomingUsers, hits_none]
    exact fun hk => Nat.sub_add_cancel hk

/-- Both user counts follow a match: the incoming lot becomes the current one (R124). -/
theorem Counted.switchLot {rest : List LineRecord} {t : Touch} {x : Crossover}
    (h : Counted rest t) (hx : t.line.crossover = some x) : Counted rest (t.switchLot x) := by
  unfold Touch.switchLot
  cases hl : t.line.lot with
  | none =>
    refine h.follow ⟨fun _ => .refl _ _, fun _ => .refl _ _, fun _ => .refl _ _, fun i => ?_,
      fun i => ?_⟩
    · show Follows _ (addCurrentUser (dropIncomingUser t.unit x.incoming)
        x.incoming).lots[i].currentUsers _ (hits (some x.incoming) i)
      rw [hl, hits_none, addCurrentUser_currentUsers, dropIncomingUser_currentUsers]
      exact fun _ => rfl
    · show Follows _ (addCurrentUser (dropIncomingUser t.unit x.incoming)
        x.incoming).lots[i].incomingUsers _ (hits none i)
      rw [incomingLot_some hx, addCurrentUser_incomingUsers, dropIncomingUser_incomingUsers,
        hits_none]
      exact fun hk => Nat.sub_add_cancel hk
  | some old =>
    refine h.follow ⟨fun _ => .refl _ _, fun _ => .refl _ _, fun _ => .refl _ _, fun i => ?_,
      fun i => ?_⟩
    · show Follows _ (addCurrentUser (dropIncomingUser (dropCurrentUser t.unit old) x.incoming)
        x.incoming).lots[i].currentUsers _ (hits (some x.incoming) i)
      rw [hl, addCurrentUser_currentUsers, dropIncomingUser_currentUsers,
        dropCurrentUser_currentUsers]
      intro hk
      omega
    · show Follows _ (addCurrentUser (dropIncomingUser (dropCurrentUser t.unit old) x.incoming)
        x.incoming).lots[i].incomingUsers _ (hits none i)
      rw [incomingLot_some hx, addCurrentUser_incomingUsers, dropIncomingUser_incomingUsers,
        dropCurrentUser_incomingUsers, hits_none]
      exact fun hk => Nat.sub_add_cancel hk

/-! ### Day steps -/

theorem Counted.lapse {rest : List LineRecord} {t : Touch} (h : Counted rest t) :
    Counted rest t.lapse := by
  unfold Touch.lapse
  cases hx : t.line.crossover with
  | none =>
    refine (Counted.bumpVersion (h.sameNames ⟨rfl, rfl, rfl, rfl, ?_⟩)).recomputeAttention
    exact (incomingLot_none hx).symm
  | some x =>
    exact (Counted.bumpVersion (h.dropCrossover hx rfl rfl rfl rfl rfl)).recomputeAttention

theorem Counted.stepRun {rest : List LineRecord} {t : Touch} (h : Counted rest t) :
    Counted rest t.stepRun := by
  unfold Touch.stepRun
  dsimp only
  split
  · split
    · exact Counted.lapse (h.sameNames ⟨rfl, rfl, rfl, rfl, rfl⟩)
    · exact h.sameNames ⟨rfl, rfl, rfl, rfl, rfl⟩
  · exact h.sameNames ⟨rfl, rfl, rfl, rfl, rfl⟩

theorem Counted.dayStep {rest : List LineRecord} {t : Touch} (h : Counted rest t) :
    Counted rest t.dayStep := by
  have hd : Counted rest (t.mapLine LineRecord.dropDayParts) := by
    refine h.sameNames ⟨rfl, rfl, rfl, rfl, ?_⟩
    simp only [LineRecord.incomingLot, LineRecord.dropDayParts, Option.map_map]
    rfl
  have closed : ∀ {t : Touch}, Counted rest t →
      Counted rest (t.mapLine fun r => { r with closedDay := r.closedDay + 1 }) :=
    fun h => h.sameNames ⟨rfl, rfl, rfl, rfl, rfl⟩
  unfold Touch.dayStep
  dsimp only
  split
  · split
    · exact closed hd.stepRun
    · exact closed (hd.sameNames ⟨rfl, rfl, rfl, rfl, rfl⟩)
    · exact closed hd
  · exact closed hd

theorem Counted.daySteps {rest : List LineRecord} (n : Nat) {t : Touch} (h : Counted rest t) :
    Counted rest (Touch.daySteps n t) := by
  induction n generalizing t with
  | zero => exact h
  | succ n ih => exact ih h.dayStep

/-! ### Readings -/

theorem Counted.mismatchCrossover {rest : List LineRecord} {t : Touch} {x : Crossover}
    (h : Counted rest t) (hx : t.line.crossover = some x) :
    Counted rest (t.mismatchCrossover x) :=
  (h.dropCrossover hx rfl rfl rfl rfl rfl).recomputeAttention

/-- Another crossover part on the same incoming lot. -/
theorem Counted.keepCrossover {rest : List LineRecord} {t : Touch} {x y : Crossover}
    (h : Counted rest t) (hx : t.line.crossover = some x) (hy : y.incoming = x.incoming) :
    Counted rest (t.mapLine fun r => { r with crossover := some y }) := by
  refine h.sameNames ⟨rfl, rfl, rfl, rfl, ?_⟩
  rw [incomingLot_some hx, ← hy]
  rfl

theorem Counted.completePair {rest : List LineRecord} {t : Touch} {x : Crossover}
    (h : Counted rest t) (hx : t.line.crossover = some x) (newValues oldValues : Points Int) :
    Counted rest (t.completePair x newValues oldValues).touched := by
  unfold Touch.completePair
  dsimp only
  split
  · split
    · exact h.switchLot hx
    · exact h.mismatchCrossover hx
  · exact h.keepCrossover hx rfl

theorem Counted.meet {rest : List LineRecord} {t : Touch} (h : Counted rest t) (side : Side)
    (day : Nat) (values : Points Int) : Counted rest (t.meet side day values).touched := by
  unfold Touch.meet
  dsimp only
  split
  · exact h
  rename_i x hx
  split
  · exact h.keepCrossover hx rfl
  split
  · split
    · split <;> exact h.completePair hx _ _
    · exact h
  · exact h.keepCrossover hx rfl

theorem Counted.evaluated {rest : List LineRecord} {t : Touch} (h : Counted rest t) (day : Nat) :
    Counted rest (t.evaluated day) :=
  (Counted.bumpVersion (h.sameNames ⟨rfl, rfl, rfl, rfl, rfl⟩)).recomputeAttention

theorem Counted.grade {rest : List LineRecord} {t : Touch} (h : Counted rest t)
    (corrected : Points Int) : Counted rest (t.grade corrected) :=
  h.sameNames ⟨rfl, rfl, rfl, rfl, rfl⟩

theorem Counted.takeBaseline {rest : List LineRecord} {t : Touch} (h : Counted rest t)
    (b : Baseline) : Counted rest (t.takeBaseline b).1 := by
  unfold Touch.takeBaseline
  split <;> exact h.sameNames ⟨rfl, rfl, rfl, rfl, rfl⟩

theorem Counted.handleActive {rest : List LineRecord} {t : Touch} (h : Counted rest t)
    (rd : Reading) (lot : Fin 64) (corrected : Points Int) :
    Counted rest (handleActive t rd lot corrected).touched := by
  unfold Machine.handleActive
  split
  · exact ((h.grade corrected).evaluated rd.day).meet _ _ _
  split
  · refine (Counted.grade (h.sameNames ?_) corrected).evaluated rd.day
    unfold LineRecord.restoreSnapshot
    split <;> exact ⟨rfl, rfl, rfl, rfl, rfl⟩
  · refine (Counted.grade (h.sameNames ?_) corrected).evaluated rd.day
    split <;> exact ⟨rfl, rfl, rfl, rfl, rfl⟩

theorem Counted.handle {rest : List LineRecord} {t : Touch} (h : Counted rest t) (rd : Reading)
    (a : Attached) : Counted rest (handle t rd a).touched := by
  unfold Machine.handle
  dsimp only
  split
  · exact h.bumpVersion.meet _ _ _
  split
  · exact (h.takeBaseline _).evaluated _
  · exact (h.takeBaseline _).evaluated _
  · exact (Counted.grade (h.sameNames ⟨rfl, rfl, rfl, rfl, rfl⟩) _).evaluated _
  · exact h.handleActive _ _ _
  · exact h

/-- The counts follow every work on a record. -/
theorem Counted.worked {rest : List LineRecord} {w t : Touch} (h : Counted rest w)
    (hw : Worked w t) : Counted rest t := by
  cases hw with
  | read => exact h
  | moved region => exact (h.moveRegion region).bumpVersion
  | profiled profile => exact (h.moveProfile profile).bumpVersion
  | aimed | acknowledged | driftCleared =>
    exact (Counted.bumpVersion (h.sameNames ⟨rfl, rfl, rfl, rfl, rfl⟩)).recomputeAttention
  | lotSet lot => exact (h.setLot lot).bumpVersion
  | opened lot _ hx => exact (h.openCrossover hx lot _).bumpVersion
  | cancelled x hx =>
    exact Counted.bumpVersion
      (h.dropCrossover (f := fun r => { r with crossover := none }) hx rfl rfl rfl rfl rfl)
  | reinstated => exact Counted.bumpVersion (h.sameNames ⟨rfl, rfl, rfl, rfl, rfl⟩)
  | handled rd a => exact h.handle rd a
  | marked => exact h.sameNames ⟨rfl, rfl, rfl, rfl, rfl⟩

theorem Counted.touched {rest : List LineRecord} {u : RecordUnit} {r : LineRecord}
    (h : Tallied u (r :: rest)) : Counted rest (touch u r) :=
  Counted.daySteps (t := ⟨r, u, false⟩) _ h

end Sys2Proof.Machine
end

section
/-! Records against the tables: the kinds of the profiles and lots a record names, the ranges of its
countdown, missed count and pairs, and the counts of every table kept exact by every step. -/

namespace Sys2Proof.Machine

open Sys2Proof

/-! ## One record against the tables -/

/-- The profile and lots a record names are of its kind, and its crossover's pairs are in range. -/
structure LineLinks (u : RecordUnit) (r : LineRecord) : Prop where
  profile_kind : u.profiles[r.profile].kind = some r.kind
  current_kind : ∀ i, r.lot = some i → u.lots[i].state ≠ .free ∧ u.lots[i].kind = some r.kind
  incoming_kind : ∀ x, r.crossover = some x →
    u.lots[x.incoming].state ≠ .free ∧ u.lots[x.incoming].kind = some r.kind
  pairs_range : ∀ x, r.crossover = some x → x.pairsDone < x.pairsRequired ∧ x.pairsRequired ≤ 5

/-- A record against the tables: its links, and its countdown and missed count in range. -/
structure LineFits (u : RecordUnit) (r : LineRecord) : Prop where
  links : LineLinks u r
  countdown_range : r.state = .active ∨ r.state = .reinstating → 1 ≤ r.countdown ∧ r.countdown ≤ 7
  missed_range : r.missed ≤ 15 ∧ (r.state ≠ .lapsed → r.missed < 15)

theorem CountsOnly.profile_kind {u v : RecordUnit} (h : CountsOnly u v) (i : Fin 32) :
    v.profiles[i].kind = u.profiles[i].kind :=
  (congrArg Profile.kind (h.profiles i) :)

theorem CountsOnly.lot_state {u v : RecordUnit} (h : CountsOnly u v) (i : Fin 64) :
    v.lots[i].state = u.lots[i].state :=
  (congrArg Lot.state (h.lots i) :)

theorem CountsOnly.lot_kind {u v : RecordUnit} (h : CountsOnly u v) (i : Fin 64) :
    v.lots[i].kind = u.lots[i].kind :=
  (congrArg Lot.kind (h.lots i) :)

/-- Counts are nothing to a record's links. -/
theorem LineLinks.congr {u v : RecordUnit} (h : CountsOnly u v) {r : LineRecord}
    (hl : LineLinks u r) : LineLinks v r where
  profile_kind := by rw [h.profile_kind]; exact hl.profile_kind
  current_kind i hi := by rw [h.lot_state, h.lot_kind]; exact hl.current_kind i hi
  incoming_kind x hx := by rw [h.lot_state, h.lot_kind]; exact hl.incoming_kind x hx
  pairs_range := hl.pairs_range

theorem LineFits.congr {u v : RecordUnit} (h : CountsOnly u v) {r : LineRecord}
    (hf : LineFits u r) : LineFits v r :=
  ⟨hf.links.congr h, hf.countdown_range, hf.missed_range⟩

/-- The use count is nothing to the ranges of a profile. -/
theorem ProfileInv.congr {p q : Profile} (h : { q with useCount := 0 } = { p with useCount := 0 })
    (hp : ProfileInv p) : ProfileInv q := by
  obtain ⟨k, a, b, c, d, e, f, n⟩ := p
  obtain ⟨k', a', b', c', d', e', f', n'⟩ := q
  simp only [Profile.mk.injEq, and_true] at h
  obtain ⟨rfl, rfl, rfl, rfl, rfl, rfl, rfl⟩ := h
  exact hp

/-- A touched record against the tables around it, and every profile in its ranges. -/
structure Fits (t : Touch) : Prop where
  line : LineFits t.unit t.line
  profiles : ∀ i : Fin 32, ProfileInv t.unit.profiles[i]

theorem Fits.of_frame {w t : Touch} (h : Fits w) (hf : WorkFrame w t)
    (hl : LineFits w.unit t.line) : Fits t :=
  ⟨hl.congr hf.unit, fun i => (h.profiles i).congr (hf.unit.profiles i)⟩

/-- The ranges of the profile a record names (R26). -/
theorem Fits.profile_ranges {t : Touch} (h : Fits t) :
    1 ≤ t.profile.stripInterval ∧ t.profile.stripInterval ≤ 7 ∧ 1 ≤ t.profile.lapseLimit ∧
      t.profile.lapseLimit ≤ 15 ∧ 1 ≤ t.profile.crossoverPairs ∧ t.profile.crossoverPairs ≤ 5 := by
  have hk : t.profile.kind = some t.line.kind := h.line.links.profile_kind
  obtain ⟨_, _, _, _, hs, hs', hl, hl', hc, hc', _⟩ :=
    (h.profiles t.line.profile).2 (by
      show t.profile.kind ≠ none
      rw [hk]
      exact Option.some_ne_none _)
  exact ⟨hs, hs', hl, hl', hc, hc'⟩

/-- A change of a record that leaves its names, kind and crossover alone leaves its links. -/
theorem LineLinks.same {u : RecordUnit} {r r' : LineRecord} (h : LineLinks u r)
    (hk : r'.kind = r.kind) (hp : r'.profile = r.profile) (hl : r'.lot = r.lot)
    (hx : r'.crossover = r.crossover) : LineLinks u r' :=
  ⟨by simpa only [hk, hp] using h.profile_kind, by rw [hk, hl]; exact h.current_kind,
    by rw [hk, hx]; exact h.incoming_kind, by rw [hx]; exact h.pairs_range⟩

/-- The links of a record whose crossover part is gone. -/
theorem LineLinks.dropCrossover {u : RecordUnit} {r r' : LineRecord} (h : LineLinks u r)
    (hk : r'.kind = r.kind) (hp : r'.profile = r.profile) (hl : r'.lot = r.lot)
    (hx : r'.crossover = none) : LineLinks u r' :=
  ⟨by simpa only [hk, hp] using h.profile_kind, by rw [hk, hl]; exact h.current_kind,
    by rw [hx]; exact nofun, by rw [hx]; exact nofun⟩

/-- A change of a record that leaves its names, kind, crossover, state, countdown and missed count
alone. -/
theorem LineFits.same {u : RecordUnit} {r r' : LineRecord} (h : LineFits u r)
    (hl : LineLinks u r') (hs : r'.state = r.state) (hc : r'.countdown = r.countdown)
    (hm : r'.missed = r.missed) : LineFits u r' :=
  ⟨hl, by rw [hs, hc]; exact h.countdown_range, by rw [hs, hm]; exact h.missed_range⟩

/-- A change that leaves alone everything a record's fit rests on. -/
theorem LineFits.apart {u : RecordUnit} {r r' : LineRecord} (h : LineFits u r)
    (hk : r'.kind = r.kind) (hp : r'.profile = r.profile) (hl : r'.lot = r.lot)
    (hx : r'.crossover = r.crossover) (hs : r'.state = r.state)
    (hc : r'.countdown = r.countdown) (hm : r'.missed = r.missed) : LineFits u r' :=
  h.same (h.links.same hk hp hl hx) hs hc hm

/-- The attention bit and the version are nothing to a record's fit. -/
theorem LineFits.recomputed {u : RecordUnit} {t : Touch} (h : LineFits u t.line) :
    LineFits u t.bumpVersion.recomputeAttention.line := by
  rw [recomputeAttention_line]
  exact h.apart rfl rfl rfl rfl rfl rfl rfl

/-! ## Day steps (R101 to R105) -/

theorem Fits.dropDayParts {t : Touch} (h : Fits t) : Fits (t.mapLine LineRecord.dropDayParts) := by
  refine h.of_frame (workFrame_mapLine t ⟨rfl, rfl, rfl, rfl⟩) (h.line.same ?_ rfl rfl rfl)
  have held : ∀ {x}, t.line.dropDayParts.crossover = some x →
      ∃ y, t.line.crossover = some y ∧ x = { y with held := none } := by
    intro x hx
    obtain ⟨y, hy, rfl⟩ := Option.map_eq_some_iff.1 hx
    exact ⟨y, hy, rfl⟩
  refine ⟨h.line.links.profile_kind, h.line.links.current_kind, fun x hx => ?_, fun x hx => ?_⟩
  · obtain ⟨y, hy, rfl⟩ := held hx
    exact h.line.links.incoming_kind y hy
  · obtain ⟨y, hy, rfl⟩ := held hx
    exact h.line.links.pairs_range y hy

theorem lapse_line (t : Touch) :
    t.lapse.line =
      (Touch.recomputeAttention (Touch.bumpVersion ⟨{ t.line with
        state := .lapsed
        countdown := 0
        lapseEvent := true
        crossover := none
        snapshot := none }, t.unit, t.attention⟩)).line := by
  unfold Touch.lapse
  cases t.line.crossover <;>
    simp only [recomputeAttention_line, Touch.bumpVersion_line, Touch.mapLine_line,
      Touch.mapUnit_line]

theorem Fits.lapse {t : Touch} (h : Fits t) (missed : Nat) (hm : missed ≤ 15) :
    Fits (Touch.lapse (t.mapLine fun r =>
      { r with missed := missed, countdown := t.profile.stripInterval })) := by
  refine h.of_frame ((workFrame_mapLine t ⟨rfl, rfl, rfl, rfl⟩).trans (DayKept.lapse _).workFrame) ?_
  rw [lapse_line]
  exact LineFits.recomputed ⟨h.line.links.dropCrossover rfl rfl rfl rfl, nofun, hm,
    fun hn => absurd rfl hn⟩

theorem clampCountdown_bounds {interval countdown : Nat} (hi : 1 ≤ interval) (hi' : interval ≤ 7)
    (hc : 1 ≤ countdown) : 1 ≤ clampCountdown interval countdown ∧
      clampCountdown interval countdown ≤ 7 := by
  unfold clampCountdown
  split <;> omega

theorem Fits.stepRun {t : Touch} (h : Fits t)
    (hs : t.line.state = .active ∨ t.line.state = .reinstating) : Fits t.stepRun := by
  obtain ⟨hi, hi', hl, hl', _, _⟩ := h.profile_ranges
  obtain ⟨hc, hc'⟩ := h.line.countdown_range hs
  have hnot : t.line.state ≠ .lapsed := by
    obtain hs | hs := hs <;> rw [hs] <;> exact nofun
  have hm := h.line.missed_range.2 hnot
  have hclamp := clampCountdown_bounds hi hi' hc
  unfold Touch.stepRun
  dsimp only
  split
  · split
    · exact h.lapse _ (by omega)
    · exact h.of_frame (workFrame_mapLine t ⟨rfl, rfl, rfl, rfl⟩)
        ⟨h.line.links.same rfl rfl rfl rfl, fun _ => ⟨hi, hi'⟩,
          by dsimp only [Touch.mapLine_line]; omega, fun _ => by
            dsimp only [Touch.mapLine_line]; omega⟩
  · exact h.of_frame (workFrame_mapLine t ⟨rfl, rfl, rfl, rfl⟩)
      ⟨h.line.links.same rfl rfl rfl rfl,
        fun _ => by dsimp only [Touch.mapLine_line]; omega, h.line.missed_range⟩

theorem Fits.stepHoldAtDue {t : Touch} (h : Fits t)
    (hs : t.line.state = .active ∨ t.line.state = .reinstating) : Fits t.stepHoldAtDue := by
  obtain ⟨hi, hi', _⟩ := h.profile_ranges
  obtain ⟨hc, hc'⟩ := clampCountdown_bounds hi hi' (h.line.countdown_range hs).1
  refine h.of_frame (DayKept.stepHoldAtDue t).workFrame
    ⟨h.line.links.same rfl rfl rfl rfl, fun _ => ?_, h.line.missed_range⟩
  simp only [Touch.stepHoldAtDue, Touch.mapLine_line]
  split <;> omega

theorem Fits.dayStep {t : Touch} (h : Fits t) : Fits t.dayStep := by
  have closed : ∀ {t : Touch}, Fits t →
      Fits (t.mapLine fun r => { r with closedDay := r.closedDay + 1 }) := fun h =>
    h.of_frame (workFrame_mapLine _ ⟨rfl, rfl, rfl, rfl⟩)
      (h.line.apart rfl rfl rfl rfl rfl rfl rfl)
  have hd := h.dropDayParts
  unfold Touch.dayStep
  dsimp only
  split
  · rename_i hc
    have hs := (counting_iff _).1 hc
    split
    · exact closed (hd.stepRun hs)
    · exact closed (hd.stepHoldAtDue hs)
    · exact closed hd
  · exact closed hd

theorem Fits.daySteps (n : Nat) {t : Touch} (h : Fits t) : Fits (Touch.daySteps n t) := by
  induction n generalizing t with
  | zero => exact h
  | succ n ih => exact ih h.dayStep

/-! ## Readings (R54 to R62, R119 to R125) -/

/-- An evaluated reading sets the countdown of an ACTIVE record and returns the missed count to 0. -/
theorem LineFits.evaluated {t : Touch} (hl : LineLinks t.unit t.line)
    (hi : 1 ≤ t.profile.stripInterval) (hi' : t.profile.stripInterval ≤ 7)
    (hs : t.line.state ≠ .reinstating) (day : Nat) : LineFits t.unit (t.evaluated day).line := by
  refine LineFits.recomputed ⟨hl.same rfl rfl rfl rfl, ?_, by simp, by simp⟩
  simp only [Touch.mapLine_line]
  rintro (ha | hr)
  · rw [if_pos ha]
    omega
  · exact absurd hr hs

/-- A grading and evaluation of a record whose links are in order, whatever its counts were. -/
theorem Fits.evaluated {w t : Touch} (h : Fits w) (hf : WorkFrame w t)
    (hl : LineLinks w.unit t.line) (hp : t.line.profile = w.line.profile)
    (hs : t.line.state ≠ .reinstating) (day : Nat) : Fits (t.evaluated day) := by
  obtain ⟨hi, hi', _⟩ := h.profile_ranges
  have hprofile : t.profile.stripInterval = w.profile.stripInterval := by
    have hi := congrArg Profile.stripInterval (hf.unit.profiles w.line.profile)
    simpa only [Touch.profile, hp] using hi
  have he := LineFits.evaluated (hl.congr hf.unit) (hprofile ▸ hi) (hprofile ▸ hi') hs day
  exact ⟨he.congr (workFrame_evaluated t day).unit, fun i =>
    (h.profiles i).congr ((hf.trans (workFrame_evaluated t day)).unit.profiles i)⟩

theorem Fits.takeBaseline {t : Touch} (h : Fits t) (b : Baseline) (day : Nat) :
    Fits ((t.takeBaseline b).1.evaluated day) := by
  refine h.evaluated (workFrame_takeBaseline t b) ?_ ?_ ?_ day
  all_goals
    unfold Touch.takeBaseline
    split
  · exact h.line.links.same rfl rfl rfl rfl
  · exact h.line.links.same rfl rfl rfl rfl
  · rfl
  · rfl
  · exact nofun
  · exact nofun

/-- Another crossover part on the same incoming lot, its pairs in range. -/
theorem Fits.keepCrossover {t : Touch} {x y : Crossover} (h : Fits t)
    (hx : t.line.crossover = some x) (hy : y.incoming = x.incoming)
    (hp : y.pairsDone < y.pairsRequired ∧ y.pairsRequired ≤ 5) :
    Fits (t.mapLine fun r => { r with crossover := some y }) := by
  refine h.of_frame (workFrame_mapLine t ⟨rfl, rfl, rfl, rfl⟩) (h.line.same
    ⟨h.line.links.profile_kind, h.line.links.current_kind, ?_, ?_⟩ rfl rfl rfl)
  · rintro z ⟨rfl⟩
    simp only [hy]
    exact h.line.links.incoming_kind x hx
  · rintro z ⟨rfl⟩
    exact hp

theorem Fits.switchLot {t : Touch} {x : Crossover} (h : Fits t)
    (hx : t.line.crossover = some x) : Fits (t.switchLot x) := by
  refine h.of_frame (workFrame_switchLot t x) ?_
  rw [switchLot_line]
  refine h.line.same ⟨h.line.links.profile_kind, ?_, nofun, nofun⟩ rfl rfl rfl
  rintro i ⟨rfl⟩
  exact h.line.links.incoming_kind x hx

theorem Fits.mismatchCrossover {t : Touch} (h : Fits t) (x : Crossover) :
    Fits (t.mismatchCrossover x) := by
  refine h.of_frame (workFrame_mismatchCrossover t x) ?_
  unfold Touch.mismatchCrossover
  rw [recomputeAttention_line]
  exact h.line.same (h.line.links.dropCrossover rfl rfl rfl rfl) rfl rfl rfl

theorem Fits.completePair {t : Touch} {x : Crossover} (h : Fits t)
    (hx : t.line.crossover = some x) (newValues oldValues : Points Int) :
    Fits (t.completePair x newValues oldValues).touched := by
  obtain ⟨hdone, hreq⟩ := h.line.links.pairs_range x hx
  unfold Touch.completePair
  dsimp only
  split
  · split
    · exact h.switchLot hx
    · exact h.mismatchCrossover x
  · exact h.keepCrossover hx rfl ⟨by dsimp only; omega, hreq⟩

theorem Fits.meet {t : Touch} (h : Fits t) (side : Side) (day : Nat) (values : Points Int) :
    Fits (t.meet side day values).touched := by
  unfold Touch.meet
  dsimp only
  split
  · exact h
  rename_i x hx
  have hp := h.line.links.pairs_range x hx
  split
  · exact h.keepCrossover hx rfl hp
  split
  · split
    · split <;> exact h.completePair hx _ _
    · exact h
  · exact h.keepCrossover hx rfl hp

theorem Fits.bumpVersion {t : Touch} (h : Fits t) : Fits t.bumpVersion :=
  h.of_frame (workFrame_bumpVersion t) (h.line.apart rfl rfl rfl rfl rfl rfl rfl)

/-- A record changed in its statistics and snapshot, graded and evaluated. -/
theorem Fits.gradedAfter {t : Touch} (h : Fits t) {f : LineRecord → LineRecord}
    (hk : SameKey t.line (f t.line)) (hp : (f t.line).profile = t.line.profile)
    (hl : (f t.line).lot = t.line.lot) (hx : (f t.line).crossover = t.line.crossover)
    (hs : (f t.line).state ≠ .reinstating) (corrected : Points Int) (day : Nat) :
    Fits (((t.mapLine f).grade corrected).evaluated day) :=
  h.evaluated ((workFrame_mapLine t hk).trans (workFrame_grade _ corrected))
    (h.line.links.same hk.kind hp hl hx) hp hs day

theorem Fits.handleActive {t : Touch} (h : Fits t) (hs : t.line.state = .active) (rd : Reading)
    (lot : Fin 64) (corrected : Points Int) :
    Fits (handleActive t rd lot corrected).touched := by
  have hs' : t.line.state ≠ .reinstating := by rw [hs]; exact nofun
  unfold Machine.handleActive
  split
  · exact (h.gradedAfter (f := id) (.refl _) rfl rfl rfl hs' corrected rd.day).meet _ _ _
  split
  · have hr : ∃ stats level, t.line.restoreSnapshot =
        { t.line with stats := stats, level := level } := by
      unfold LineRecord.restoreSnapshot
      split <;> exact ⟨_, _, rfl⟩
    obtain ⟨stats, level, hr⟩ := hr
    refine h.gradedAfter (f := (·.restoreSnapshot)) ?_ ?_ ?_ ?_ ?_ corrected rd.day
    all_goals rw [hr]
    · exact ⟨rfl, rfl, rfl, rfl⟩
    · exact hs'
  · have hr : ∃ snapshot, (if rd.day = t.unit.businessDay then t.line.takeSnapshot rd.day lot
        else { t.line with snapshot := none }) = { t.line with snapshot := snapshot } := by
      split <;> exact ⟨_, rfl⟩
    obtain ⟨snapshot, hr⟩ := hr
    refine h.gradedAfter (f := fun r => if rd.day = t.unit.businessDay then r.takeSnapshot rd.day lot
        else { r with snapshot := none }) ?_ ?_ ?_ ?_ ?_ corrected rd.day
    all_goals rw [hr]
    · exact ⟨rfl, rfl, rfl, rfl⟩
    · exact hs'

theorem Fits.handle {t : Touch} (h : Fits t) (rd : Reading) (a : Attached) :
    Fits (handle t rd a).touched := by
  unfold Machine.handle
  dsimp only
  split
  · exact h.bumpVersion.meet _ _ _
  split
  · exact h.takeBaseline _ _
  · exact h.takeBaseline _ _
  · exact h.gradedAfter (f := fun r => { r.resetStats with state := .active }) ⟨rfl, rfl, rfl, rfl⟩
      rfl rfl rfl nofun _ _
  · rename_i hs
    exact h.handleActive hs _ _ _
  · exact h

/-! ## Every work on a record -/

theorem Fits.loadAims {t : Touch} (h : Fits t) (aims : Points Int) :
    LineFits t.unit (t.line.loadAims t.profile.stripInterval aims) := by
  obtain ⟨hi, hi', _⟩ := h.profile_ranges
  refine ⟨h.line.links.same rfl rfl rfl rfl, ?_, ?_, ?_⟩
  all_goals
    simp only [LineRecord.loadAims]
    split
  · exact fun _ => ⟨hi, hi'⟩
  · exact h.line.countdown_range
  · exact Nat.zero_le _
  · exact h.line.missed_range.1
  · exact fun _ => by decide
  · exact h.line.missed_range.2

theorem Fits.worked {w t : Touch} (h : Fits w) (hw : Worked w t) : Fits t := by
  obtain ⟨hi, hi', _, _, hc, hc'⟩ := h.profile_ranges
  have fits : LineFits w.unit t.line → Fits t := h.of_frame hw.frame
  have hl := h.line
  cases hw with
  | read => exact h
  | moved region =>
    refine fits ?_
    rw [Touch.bumpVersion_line, moveRegion_line]
    exact hl.apart rfl rfl rfl rfl rfl rfl rfl
  | profiled profile hk =>
    refine fits ?_
    rw [Touch.bumpVersion_line, moveProfile_line]
    exact hl.same ⟨hk, hl.links.current_kind, hl.links.incoming_kind, hl.links.pairs_range⟩
      rfl rfl rfl
  | aimed aims => exact fits (LineFits.recomputed (h.loadAims aims))
  | lotSet lot hx hs hk =>
    refine fits ?_
    rw [Touch.bumpVersion_line, Touch.mapLine_line, moveLotCounts_line]
    refine ⟨⟨hl.links.profile_kind, ?_, hl.links.incoming_kind, hl.links.pairs_range⟩, ?_,
      hl.missed_range.1, ?_⟩
    · rintro i ⟨rfl⟩
      exact ⟨hs, hk⟩
    · simp only [LineRecord.setLot]
      split
      · exact nofun
      · exact hl.countdown_range
    · simp only [LineRecord.setLot]
      split
      · rename_i hb
        exact fun _ => hl.missed_range.2 (by rw [hb]; exact nofun)
      · exact hl.missed_range.2
  | opened lot ha hx hs hk =>
    refine fits (hl.same ⟨hl.links.profile_kind, hl.links.current_kind, ?_, ?_⟩ rfl rfl rfl)
    · rintro x ⟨rfl⟩
      exact ⟨hs, hk⟩
    · rintro x ⟨rfl⟩
      exact ⟨hc, hc'⟩
  | cancelled x => exact fits (hl.same (hl.links.dropCrossover rfl rfl rfl rfl) rfl rfl rfl)
  | acknowledged => exact fits (LineFits.recomputed (hl.apart rfl rfl rfl rfl rfl rfl rfl))
  | driftCleared => exact fits (LineFits.recomputed (hl.apart rfl rfl rfl rfl rfl rfl rfl))
  | reinstated =>
    exact fits ⟨hl.links.same rfl rfl rfl rfl, fun _ => ⟨hi, hi'⟩, Nat.zero_le _, fun _ => by
      show 0 < 15
      decide⟩
  | handled rd a => exact h.handle rd a
  | marked => exact fits (hl.apart rfl rfl rfl rfl rfl rfl rfl)

end Sys2Proof.Machine
end

section
/-! The counts beside the records kept exact by every step: one record against the others, then each
work of the Record Unit. -/

namespace Sys2Proof.Machine

open Sys2Proof

/-! ## Counts and fits against a list of records -/

/-- Tables in order for a list of records: the counts exact, the profiles in their ranges, and each
record in order against them. -/
structure CountsFit (u : RecordUnit) (l : List LineRecord) : Prop where
  tallied : Tallied u l
  profiles : ∀ i : Fin 32, ProfileInv u.profiles[i]
  fits : ∀ r ∈ l, LineFits u r

theorem attentionRegion_beq (r : LineRecord) (i : Fin 64) :
    (r.attentionRegion == some i) = (r.region == i && r.attention) := by
  unfold LineRecord.attentionRegion
  cases r.attention <;> simp

theorem countsInv_iff (s : State) : CountsInv s ↔ CountsFit s.unit s.unit.records := by
  constructor
  · intro h
    refine ⟨⟨h.profile_use, h.region_live, fun i => ?_, h.lot_current, h.lot_incoming⟩,
      h.profiles_ok, fun r hr => ⟨⟨h.profile_kind r hr, h.current_kind r hr, h.incoming_kind r hr,
        h.pairs_range r hr⟩, h.countdown_range r hr, h.missed_range r hr⟩⟩
    simp only [attentionRegion_beq]
    exact h.region_attention i
  · rintro ⟨ht, hp, hf⟩
    refine ⟨ht.profile_use, ht.region_live, fun i => ?_, ht.lot_current, ht.lot_incoming, hp,
      fun r hr => (hf r hr).links.profile_kind, fun r hr => (hf r hr).links.current_kind,
      fun r hr => (hf r hr).links.incoming_kind, fun r hr => (hf r hr).countdown_range,
      fun r hr => (hf r hr).missed_range, fun r hr => (hf r hr).links.pairs_range⟩
    simp only [← attentionRegion_beq]
    exact ht.region_attention i

theorem CountsFit.perm {u : RecordUnit} {l l' : List LineRecord} (h : CountsFit u l)
    (hp : l.Perm l') : CountsFit u l' :=
  ⟨h.tallied.perm hp, h.profiles, fun r hr => h.fits r (hp.mem_iff.2 hr)⟩

/-- Tables that differ in nothing the records count or name. -/
theorem CountsFit.congr {u v : RecordUnit} {l : List LineRecord} (h : CountsFit u l)
    (hp : v.profiles = u.profiles) (hl : v.lots = u.lots)
    (hr : ∀ i : Fin 64, v.regions[i].liveCount = u.regions[i].liveCount ∧
      v.regions[i].attentionCount = u.regions[i].attentionCount) : CountsFit v l := by
  obtain ⟨⟨h1, h2, h3, h4, h5⟩, hok, hf⟩ := h
  have live : ∀ i : Fin 64, v.regions[i].liveCount = u.regions[i].liveCount := fun i => (hr i).1
  have att : ∀ i : Fin 64, v.regions[i].attentionCount = u.regions[i].attentionCount :=
    fun i => (hr i).2
  refine ⟨⟨?_, ?_, ?_, ?_, ?_⟩, ?_, fun r hm => ?_⟩
  · rw [hp]; exact h1
  · simp only [live]; exact h2
  · simp only [att]; exact h3
  · rw [hl]; exact h4
  · rw [hl]; exact h5
  · rw [hp]; exact hok
  · obtain ⟨⟨k1, k2, k3, k4⟩, hc, hm⟩ := hf r hm
    exact ⟨⟨by rw [hp]; exact k1, by rw [hl]; exact k2, by rw [hl]; exact k3, k4⟩, hc, hm⟩

/-! ## One record and the others -/

/-- The records of a table in slot order: the one of a slot, and the others. -/
theorem perm_cons_others {l : List LineRecord} (h : l.Pairwise fun a b => a.slot < b.slot)
    {r : LineRecord} (hr : r ∈ l) : l.Perm (r :: l.filter fun x => x.slot != r.slot) := by
  have hn : l.Nodup := h.imp fun hlt he => Nat.ne_of_lt hlt (congrArg LineRecord.slot he)
  have others : l.erase r = l.filter fun x => x.slot != r.slot := by
    rw [hn.erase_eq_filter]
    refine List.filter_congr fun x hx => ?_
    rw [Bool.eq_iff_iff, bne_iff_ne, bne_iff_ne]
    exact ⟨fun hne hs => hne (eq_of_slot_eq h hr hx hs), fun hne he => hne (he ▸ rfl)⟩
  rw [← others]
  exact List.perm_cons_erase hr

/-- The records of a table in slot order, with another record in the place of one. -/
theorem putLine_perm {l : List LineRecord} (h : l.Pairwise fun a b => a.slot < b.slot)
    {r : LineRecord} (hr : r ∈ l) (y : LineRecord) :
    (l.map fun x => if x.slot = r.slot then y else x).Perm
      (y :: l.filter fun x => x.slot != r.slot) := by
  have hp := (perm_cons_others h hr).map fun x => if x.slot = r.slot then y else x
  have others : (l.filter fun x => x.slot != r.slot).map
      (fun x => if x.slot = r.slot then y else x) = l.filter fun x => x.slot != r.slot := by
    refine (List.map_congr_left fun x hx => ?_).trans (List.map_id _)
    exact if_neg (by simpa using (List.mem_filter.1 hx).2)
  rwa [List.map_cons, if_pos rfl, others] at hp

/-- A record caught up and worked on, with the others beside it. -/
theorem CountsFit.worked {u : RecordUnit} {r : LineRecord} {rest : List LineRecord} {t : Touch}
    (h : CountsFit u (r :: rest)) (hw : Worked (touch u r) t) :
    CountsFit t.unit (t.line :: rest) := by
  have alone : Fits ⟨r, u, false⟩ := ⟨h.fits r List.mem_cons_self, h.profiles⟩
  have worked : Fits t := (alone.daySteps _).worked hw
  refine ⟨(Counted.touched h.tallied).worked hw, worked.profiles, fun x hx => ?_⟩
  obtain rfl | hx := List.mem_cons.1 hx
  · exact worked.line
  · exact (h.fits x (List.mem_cons_of_mem r hx)).congr hw.frame_touch.unit

theorem CountsFit.commit {u : RecordUnit} {r : LineRecord} {t : Touch}
    (h : CountsFit u u.records) (hs : u.records.Pairwise fun a b => a.slot < b.slot)
    (hr : r ∈ u.records) (hw : Worked (touch u r) t) : CountsFit t.commit t.commit.records := by
  have hrest := (h.perm (perm_cons_others hs hr)).worked hw
  have hcommit := hrest.congr (v := t.commit) rfl rfl fun _ => ⟨rfl, rfl⟩
  rw [hw.commit_records]
  exact hcommit.perm (putLine_perm hs hr t.line).symm

/-! ## The other table of a count change -/

@[simp] theorem addLive_profiles (u : RecordUnit) (i : Fin 64) :
    (addLive u i).profiles = u.profiles := rfl

@[simp] theorem dropLive_profiles (u : RecordUnit) (i : Fin 64) :
    (dropLive u i).profiles = u.profiles := rfl

@[simp] theorem dropAttention_profiles (u : RecordUnit) (i : Fin 64) :
    (dropAttention u i).profiles = u.profiles := rfl

@[simp] theorem addCurrentUser_profiles (u : RecordUnit) (i : Fin 64) :
    (addCurrentUser u i).profiles = u.profiles := rfl

@[simp] theorem dropCurrentUser_profiles (u : RecordUnit) (i : Fin 64) :
    (dropCurrentUser u i).profiles = u.profiles := rfl

@[simp] theorem dropIncomingUser_profiles (u : RecordUnit) (i : Fin 64) :
    (dropIncomingUser u i).profiles = u.profiles := rfl

@[simp] theorem addProfileUse_regions (u : RecordUnit) (i : Fin 32) :
    (addProfileUse u i).regions = u.regions := rfl

@[simp] theorem dropProfileUse_regions (u : RecordUnit) (i : Fin 32) :
    (dropProfileUse u i).regions = u.regions := rfl

@[simp] theorem addCurrentUser_regions (u : RecordUnit) (i : Fin 64) :
    (addCurrentUser u i).regions = u.regions := rfl

@[simp] theorem dropCurrentUser_regions (u : RecordUnit) (i : Fin 64) :
    (dropCurrentUser u i).regions = u.regions := rfl

@[simp] theorem dropIncomingUser_regions (u : RecordUnit) (i : Fin 64) :
    (dropIncomingUser u i).regions = u.regions := rfl

@[simp] theorem addProfileUse_lots (u : RecordUnit) (i : Fin 32) :
    (addProfileUse u i).lots = u.lots := rfl

@[simp] theorem dropProfileUse_lots (u : RecordUnit) (i : Fin 32) :
    (dropProfileUse u i).lots = u.lots := rfl

@[simp] theorem addLive_lots (u : RecordUnit) (i : Fin 64) : (addLive u i).lots = u.lots := rfl

@[simp] theorem dropLive_lots (u : RecordUnit) (i : Fin 64) : (dropLive u i).lots = u.lots := rfl

@[simp] theorem dropAttention_lots (u : RecordUnit) (i : Fin 64) :
    (dropAttention u i).lots = u.lots := rfl

/-! ## A record retired (R22) -/

/-- The counts after the count changes of RETIRE_LINE. -/
structure DropsCounts (u v : RecordUnit) (r : LineRecord) : Prop where
  profile_use : ∀ i : Fin 32,
    v.profiles[i].useCount = u.profiles[i].useCount - hits (some r.profile) i
  region_live : ∀ i : Fin 64,
    v.regions[i].liveCount = u.regions[i].liveCount - hits (some r.region) i
  region_attention : ∀ i : Fin 64,
    v.regions[i].attentionCount = u.regions[i].attentionCount - hits r.attentionRegion i
  lot_current : ∀ i : Fin 64,
    v.lots[i].currentUsers = u.lots[i].currentUsers - hits r.lot i
  lot_incoming : ∀ i : Fin 64,
    v.lots[i].incomingUsers = u.lots[i].incomingUsers - hits r.incomingLot i

theorem retireCounts_profiles (u : RecordUnit) (r : LineRecord) :
    (retireCounts u r).profiles = (dropProfileUse u r.profile).profiles := by
  unfold retireCounts
  cases r.crossover <;> cases r.lot <;> cases r.attention <;> rfl

theorem retireCounts_regions (u : RecordUnit) (r : LineRecord) :
    (retireCounts u r).regions = (if r.attention then dropAttention (dropLive u r.region) r.region
      else dropLive u r.region).regions := by
  unfold retireCounts
  cases r.crossover <;> cases r.lot <;> cases r.attention <;> rfl

theorem retireCounts_lots (u : RecordUnit) (r : LineRecord) :
    (retireCounts u r).lots = (match r.lot, r.crossover with
      | none, none => u
      | none, some x => dropIncomingUser u x.incoming
      | some i, none => dropCurrentUser u i
      | some i, some x => dropIncomingUser (dropCurrentUser u i) x.incoming).lots := by
  unfold retireCounts
  cases r.crossover <;> cases r.lot <;> cases r.attention <;> rfl

theorem retireCounts_drops (u : RecordUnit) (r : LineRecord) : DropsCounts u (retireCounts u r) r where
  profile_use i := by rw [retireCounts_profiles, dropProfileUse_useCount]
  region_live i := by
    rw [retireCounts_regions]
    split
    · rw [dropAttention_liveCount, dropLive_liveCount]
    · rw [dropLive_liveCount]
  region_attention i := by
    rw [retireCounts_regions]
    split
    · rename_i ha
      rw [attentionRegion_of_true ha, dropAttention_attentionCount, dropLive_attentionCount]
    · rename_i ha
      rw [attentionRegion_of_false (by simpa using ha), dropLive_attentionCount, hits_none]
      rfl
  lot_current i := by
    rw [retireCounts_lots]
    cases r.lot <;> cases r.crossover <;> simp [-Fin.getElem_fin]
  lot_incoming i := by
    rw [retireCounts_lots]
    cases hx : r.crossover <;> cases r.lot <;>
      simp [-Fin.getElem_fin, incomingLot_none, incomingLot_some, hx]

theorem Tallied.drop {u v : RecordUnit} {r : LineRecord} {l : List LineRecord}
    (h : Tallied u (r :: l)) (hd : DropsCounts u v r) : Tallied v l :=
  ⟨h.profile_use.pop hd.profile_use, h.region_live.pop hd.region_live,
    h.region_attention.pop hd.region_attention, h.lot_current.pop hd.lot_current,
    h.lot_incoming.pop hd.lot_incoming⟩

theorem CountsFit.retired {u : RecordUnit} {r : LineRecord} (h : CountsFit u u.records)
    (hs : u.records.Pairwise fun a b => a.slot < b.slot) (hr : r ∈ u.records) :
    CountsFit (retireRecord (touch u r).unit (touch u r).line)
      (retireRecord (touch u r).unit (touch u r).line).records := by
  have hw : Worked (touch u r) (touch u r) := .read
  have htouched := (h.perm (perm_cons_others hs hr)).worked hw
  have hcounts := countsOnly_retireCounts (touch u r).unit (touch u r).line
  have hdropped : CountsFit (retireCounts (touch u r).unit (touch u r).line)
      (u.records.filter fun x => x.slot != r.slot) :=
    ⟨htouched.tallied.drop (retireCounts_drops _ _),
      fun i => (htouched.profiles i).congr (hcounts.profiles i),
      fun x hx => (htouched.fits x (List.mem_cons_of_mem _ hx)).congr hcounts⟩
  rw [retireRecord_records, hw.frame_touch.unit.records, hw.frame_touch.line.slot]
  exact hdropped.congr rfl rfl fun _ => ⟨rfl, rfl⟩

/-! ## A record created (R20) -/

theorem createRecord_adds (u : RecordUnit) {r : LineRecord} (ha : r.attention = false)
    (hx : r.crossover = none) :
    (∀ i : Fin 32, (createRecord u r).profiles[i].useCount =
      u.profiles[i].useCount + hits (some r.profile) i) ∧
    (∀ i : Fin 64, (createRecord u r).regions[i].liveCount =
      u.regions[i].liveCount + hits (some r.region) i) ∧
    (∀ i : Fin 64, (createRecord u r).regions[i].attentionCount =
      u.regions[i].attentionCount + hits r.attentionRegion i) ∧
    (∀ i : Fin 64, (createRecord u r).lots[i].currentUsers =
      u.lots[i].currentUsers + hits r.lot i) ∧
    (∀ i : Fin 64, (createRecord u r).lots[i].incomingUsers =
      u.lots[i].incomingUsers + hits r.incomingLot i) := by
  unfold createRecord
  dsimp only
  cases hl : r.lot <;>
    refine ⟨fun i => ?_, fun i => ?_, fun i => ?_, fun i => ?_, fun i => ?_⟩ <;>
    simp [-Fin.getElem_fin, attentionRegion_of_false ha, incomingLot_none hx]

/-- The count changes of CREATE_LINE change counts alone, beside the new record and its slot. -/
theorem createRecord_counts (u : RecordUnit) (r : LineRecord) :
    CountsOnly { u with
      records := (createRecord u r).records
      index := (createRecord u r).index } (createRecord u r) := by
  unfold createRecord
  have base := fun v : RecordUnit =>
    (countsOnly_addProfileUse v r.profile).trans (countsOnly_addLive _ r.region)
  cases hl : r.lot with
  | none => exact base _
  | some i => exact (base _).trans (countsOnly_addCurrentUser _ i)

theorem CountsFit.created {u : RecordUnit} {r : LineRecord} (h : CountsFit u u.records)
    (ha : r.attention = false) (hx : r.crossover = none)
    (hf : LineFits u r) : CountsFit (createRecord u r) (createRecord u r).records := by
  obtain ⟨h1, h2, h3, h4, h5⟩ := createRecord_adds u ha hx
  have hc := createRecord_counts u r
  have hadded : CountsFit (createRecord u r) (r :: u.records) := by
    refine ⟨⟨h.tallied.profile_use.push h1, h.tallied.region_live.push h2,
      h.tallied.region_attention.push h3, h.tallied.lot_current.push h4,
      h.tallied.lot_incoming.push h5⟩, fun i => (h.profiles i).congr (hc.profiles i), fun x hx => ?_⟩
    have fits : LineFits u x := by
      obtain rfl | hx := List.mem_cons.1 hx
      · exact hf
      · exact h.fits x hx
    obtain ⟨⟨k1, k2, k3, k4⟩, k5, k6⟩ := fits
    exact LineFits.congr hc ⟨⟨k1, k2, k3, k4⟩, k5, k6⟩
  rw [createRecord_records]
  exact hadded.perm (insertRecord_perm r u.records).symm

/-! ## A table entry written -/

/-- An entry counted 0 is no record's. -/
theorem Tallies.unused {n : Nat} {count : Fin n → Nat} {key : LineRecord → Option (Fin n)}
    {l : List LineRecord} (h : Tallies count key l) {i : Fin n} (h0 : count i = 0) :
    ∀ r ∈ l, key r ≠ some i := by
  intro r hr he
  have hc := h i
  rw [h0, eq_comm, List.countP_eq_zero] at hc
  exact hc r hr (beq_iff_eq.2 he)

/-- An entry that no record names is counted 0. -/
theorem Tallies.zero {n : Nat} {count : Fin n → Nat} {key : LineRecord → Option (Fin n)}
    {l : List LineRecord} (h : Tallies count key l) {i : Fin n} (hn : ∀ r ∈ l, key r ≠ some i) :
    count i = 0 :=
  (h i).trans (List.countP_eq_zero.2 fun r hr he => hn r hr (beq_iff_eq.1 he))

/-- A FREE lot has no users (R36, R37). -/
theorem CountsFit.free_unused {u : RecordUnit} {l : List LineRecord} (h : CountsFit u l)
    {i : Fin 64} (hf : u.lots[i].state = .free) :
    u.lots[i].currentUsers = 0 ∧ u.lots[i].incomingUsers = 0 := by
  constructor
  · exact h.tallied.lot_current.zero fun r hr hl => ((h.fits r hr).links.current_kind i hl).1 hf
  · refine h.tallied.lot_incoming.zero fun r hr hl => ?_
    obtain ⟨x, hx, rfl⟩ := Option.map_eq_some_iff.1 hl
    exact ((h.fits r hr).links.incoming_kind x hx).1 hf

/-- A lot's entry written with its user counts kept, and its kind kept or the lot without users. -/
theorem CountsFit.lotWritten {u : RecordUnit} {l : List LineRecord} (h : CountsFit u l) (i : Fin 64)
    {f : Lot → Lot} (hcur : (f u.lots[i]).currentUsers = u.lots[i].currentUsers)
    (hinc : (f u.lots[i]).incomingUsers = u.lots[i].incomingUsers)
    (hk : (f u.lots[i]).state ≠ .free ∧ (f u.lots[i]).kind = u.lots[i].kind ∨
      u.lots[i].currentUsers = 0 ∧ u.lots[i].incomingUsers = 0) :
    CountsFit (u.modifyLot i f) l := by
  have cur : ∀ j : Fin 64, (u.modifyLot i f).lots[j].currentUsers = u.lots[j].currentUsers := by
    intro j
    rw [modifyLot_lots]
    split
    · subst j; exact hcur
    · rfl
  have inc : ∀ j : Fin 64, (u.modifyLot i f).lots[j].incomingUsers = u.lots[j].incomingUsers := by
    intro j
    rw [modifyLot_lots]
    split
    · subst j; exact hinc
    · rfl
  have named : ∀ {k : ProcessKind} (j : Fin 64),
      (u.lots[i].currentUsers = 0 ∧ u.lots[i].incomingUsers = 0 → i ≠ j) →
      u.lots[j].state ≠ .free ∧ u.lots[j].kind = some k →
      (u.modifyLot i f).lots[j].state ≠ .free ∧ (u.modifyLot i f).lots[j].kind = some k := by
    intro k j hne hj
    rw [modifyLot_lots]
    split
    · subst j
      obtain ⟨hs, hkind⟩ := hk.resolve_right fun h0 => hne h0 rfl
      exact ⟨hs, hkind.trans hj.2⟩
    · exact hj
  have ht := h.tallied
  refine ⟨⟨ht.profile_use, ht.region_live, ht.region_attention, ?_, ?_⟩, h.profiles,
    fun r hr => ?_⟩
  · simp only [cur]
    exact ht.lot_current
  · simp only [inc]
    exact ht.lot_incoming
  · obtain ⟨⟨hprofile, hcurrent, hincoming, hpairs⟩, hc, hm⟩ := h.fits r hr
    refine ⟨⟨hprofile, fun j hj => named j ?_ (hcurrent j hj),
      fun x hx => named x.incoming ?_ (hincoming x hx), hpairs⟩, hc, hm⟩
    · rintro ⟨h0, -⟩ rfl
      exact ht.lot_current.unused h0 r hr hj
    · rintro ⟨-, h0⟩ he
      exact ht.lot_incoming.unused h0 r hr (he ▸ incomingLot_some hx)

/-- A profile's entry written in its ranges with its use count kept, and its kind kept or the profile
unused (R26, R28, R29). -/
theorem CountsFit.profileWritten {u : RecordUnit} {l : List LineRecord} (h : CountsFit u l)
    (i : Fin 32) {f : Profile → Profile}
    (huse : (f u.profiles[i]).useCount = u.profiles[i].useCount)
    (hok : ProfileInv (f u.profiles[i]))
    (hk : 0 < u.profiles[i].useCount → (f u.profiles[i]).kind = u.profiles[i].kind) :
    CountsFit (u.modifyProfile i f) l := by
  have use : ∀ j : Fin 32, (u.modifyProfile i f).profiles[j].useCount = u.profiles[j].useCount := by
    intro j
    rw [modifyProfile_profiles]
    split
    · subst j; exact huse
    · rfl
  have ht := h.tallied
  refine ⟨⟨?_, ht.region_live, ht.region_attention, ht.lot_current, ht.lot_incoming⟩, fun j => ?_,
    fun r hr => ?_⟩
  · simp only [use]
    exact ht.profile_use
  · rw [modifyProfile_profiles]
    split
    · exact hok
    · exact h.profiles j
  · obtain ⟨⟨hprofile, hcurrent, hincoming, hpairs⟩, hc, hm⟩ := h.fits r hr
    refine ⟨⟨?_, hcurrent, hincoming, hpairs⟩, hc, hm⟩
    rw [modifyProfile_profiles]
    split
    · rename_i he
      have hused : 0 < u.profiles[i].useCount := Nat.pos_of_ne_zero fun h0 =>
        ht.profile_use.unused h0 r hr (congrArg some he.symm)
      rw [hk hused, he]
      exact hprofile
    · exact hprofile

theorem writtenProfile_ok (kind : Option ProcessKind) (a : WriteProfileArgs) (useCount : Nat)
    (hr : kind ≠ none → profileInRange a = true) : ProfileInv (writtenProfile kind a useCount) := by
  cases kind with
  | none => exact ⟨fun _ => rfl, fun hn => absurd rfl hn⟩
  | some k =>
    obtain ⟨h1, h2, h3, h4, h5, h6, h7, h8, h9, h10, hlimits⟩ :=
      (profileInRange_iff a).1 (hr (Option.some_ne_none k))
    refine ⟨nofun, fun _ => ⟨h1, h2, h3, h4, h5, h6, h7, h8, h9, h10, fun q => ?_⟩⟩
    obtain ⟨w1, -, wa, a2, k2, hh1, hh2, t1, t2⟩ := (limitsInRange_iff _).1 (hlimits q)
    have hq : (writtenProfile (some k) a useCount).limits[q] = limitsFrom a.limits[q] := by
      simp [writtenProfile]
    rw [hq]
    exact ⟨w1, wa, a2, k2, hh1, hh2, t1, t2⟩

/-! ## Every work of the Record Unit -/

theorem Effect.counts {u v : RecordUnit} (he : Effect u v)
    (hs : u.records.Pairwise fun a b => a.slot < b.slot) (h : CountsFit u u.records) :
    CountsFit v v.records := by
  have same : ∀ {v : RecordUnit}, v.profiles = u.profiles → v.lots = u.lots →
      v.regions = u.regions → CountsFit v u.records := fun hp hl hr =>
    h.congr hp hl fun i => ⟨by rw [hr], by rw [hr]⟩
  cases he with
  | stands => exact h
  | worked hr hw => exact h.commit hs hr hw
  | created region ht hn hp hl =>
    unfold RecordUnit.takeSlot at ht
    split at ht <;> cases ht
    refine CountsFit.created (h.congr rfl rfl fun _ => ⟨rfl, rfl⟩) rfl rfl
      ⟨⟨hp, hl, nofun, nofun⟩, ?_, Nat.zero_le _, fun _ => ?_⟩
    · rintro (hs | hs) <;> cases hs
    · show 0 < 15
      decide
  | retired hr => exact h.retired hs hr
  | scanned hv =>
    exact walked_keeps (P := fun v => CountsFit v v.records) (fun hp hm hc => hc.commit hp hm .read)
      hs hv h
  | profileWritten i a hr hu =>
    refine h.profileWritten i ?_ (writtenProfile_ok _ a _ hr) fun hused => ?_
    · cases kindOfCode a.kind.toNat <;> rfl
    · rw [← hu hused]
      cases kindOfCode a.kind.toNat <;> rfl
  | profilesFrozen | surveyStarted | surveyStopped => exact same rfl rfl rfl
  | lotAdded i code kind offsets hf =>
    obtain ⟨h0, h1⟩ := h.free_unused hf
    exact h.lotWritten i h0.symm h1.symm (.inr ⟨h0, h1⟩)
  | lotWithdrawn i => exact h.lotWritten i rfl rfl (.inl ⟨nofun, rfl⟩)
  | lotRemoved i h0 h1 => exact h.lotWritten i h0.symm h1.symm (.inr ⟨h0, h1⟩)
  | holdSet i mode =>
    refine h.congr rfl rfl fun j => ⟨?_, ?_⟩
    · exact modifyRegion_kept Region.liveCount u i j fun _ => rfl
    · exact modifyRegion_kept Region.attentionCount u i j fun _ => rfl
  | dayClosed day => exact h.congr rfl rfl fun j => by simp [closeDay]

theorem CountsFit.sameTables {u v : RecordUnit} (h : CountsFit u u.records) (hv : SameTables u v) :
    CountsFit v v.records := by
  rw [hv.records]
  exact h.congr hv.profiles hv.lots fun i => by rw [hv.regions]; exact ⟨rfl, rfl⟩

theorem UnitMove.counts {s t : State} (hm : UnitMove s t) (ht : TableInv s)
    (h : CountsFit s.unit s.unit.records) : CountsFit t.unit t.unit.records := by
  cases hm with
  | worked v he hv => exact (he.counts ht.slots_rise h).sameTables hv
  | initialised hs hu =>
    have hempty := (ht.before_ready hs).1
    rw [hempty] at h
    rw [hu]
    exact h.congr rfl rfl fun _ => ⟨rfl, rfl⟩

theorem countsFit_reset : CountsFit RecordUnit.reset [] := by
  have hp : ∀ i : Fin 32, RecordUnit.reset.profiles[i] = Profile.unset := fun i => by
    simp [RecordUnit.reset]
  have hl : ∀ i : Fin 64, RecordUnit.reset.lots[i] = Lot.vacant := fun i => by
    simp [RecordUnit.reset]
  have hr : ∀ i : Fin 64, RecordUnit.reset.regions[i] = Region.reset := fun i => by
    simp [RecordUnit.reset]
  refine ⟨⟨fun i => ?_, fun i => ?_, fun i => ?_, fun i => ?_, fun i => ?_⟩, fun i => ?_, fun _ hr =>
    absurd hr List.not_mem_nil⟩
  · exact congrArg Profile.useCount (hp i)
  · exact congrArg Region.liveCount (hr i)
  · exact congrArg Region.attentionCount (hr i)
  · exact congrArg Lot.currentUsers (hl i)
  · exact congrArg Lot.incomingUsers (hl i)
  · rw [hp]
    exact ⟨fun _ => rfl, fun hn => absurd rfl hn⟩

theorem tableInv_and_countsInv_kept : KeptByActions fun s => TableInv s ∧ CountsInv s where
  queue s rest := fun ⟨ht, h⟩ => ⟨tableInv_kept.queue s rest ht, (countsInv_iff _).2
    ((countsInv_iff s).1 h)⟩
  sent s := fun ⟨ht, h⟩ => ⟨tableInv_kept.sent s ht, (countsInv_iff _).2 (by
    rw [State.sendOldest_unit]
    exact (countsInv_iff s).1 h)⟩
  settled before s := fun ⟨ht, h⟩ => ⟨tableInv_kept.settled before s ht, (countsInv_iff _).2 (by
    rw [settle_unit]
    exact (countsInv_iff s).1 h)⟩
  cold held s := ⟨tableInv_kept.cold held s, (countsInv_iff _).2 countsFit_reset⟩
  acts s t hc ha := fun ⟨ht, h⟩ => ⟨tableInv_kept.acts s t hc ha ht,
    (countsInv_iff t).2 (ha.unitMove.counts ht ((countsInv_iff s).1 h))⟩

/-- Settles O59: each work on a record moves the counts from what the record named to what it names
now, and the other works write entries that no record's fit rests on. -/
theorem stepKeepsTheCounts : Obligations.StepKeepsTheCounts :=
  fun _ _ ht h hs => (tableInv_and_countsInv_kept.step hs ⟨ht, h⟩).2

end Sys2Proof.Machine
end

section
/-! The Command Port with a request of the Record Unit: presented, answered by the port itself, or
served by work that goes on beside the grant. -/

namespace Sys2Proof.Machine

open Sys2Proof

/-! ## Which requests the port refuses (R150 steps 6 and 7) -/

/-- The gated requests by name (R25). -/
theorem isGated_iff {op : UnitOp} :
    isGated op = true ↔ (∃ a, op = .writeProfile a) ∨ op = .freezeProfiles ∨
      (∃ a, op = .addLot a) ∨ (∃ l, op = .withdrawLot l) ∨ ∃ l, op = .removeLot l := by
  cases op <;> simp [isGated]

/-- The gate decides over a gated request (R25). -/
theorem portRefuses_gated {g : Gate} {op : UnitOp} (ho : isGated op = true) :
    portRefuses g op = if g = .opened then none else some (.plain .configClosed []) := by
  rcases isGated_iff.1 ho with ⟨a, rfl⟩ | rfl | ⟨a, rfl⟩ | ⟨l, rfl⟩ | ⟨l, rfl⟩ <;> cases g <;> rfl

/-- The port itself refuses no other request but a reading with a failed check code (R150). -/
theorem portRefuses_ungated {g : Gate} {op : UnitOp} (ho : isGated op = false)
    (hr : ∀ raw, op ≠ .submitReading raw) : portRefuses g op = none := by
  unfold portRefuses
  rw [ho, Bool.false_and, if_neg Bool.false_ne_true]
  split
  · exact absurd rfl (hr _)
  · rfl

/-- A request other than the gate's own opens no gate and leaves an OPEN one OPEN (R158). -/
theorem gateAfterOther_opened {g : Gate} : gateAfterOther g = .opened ↔ g = .opened := by
  cases g <;> simp [gateAfterOther]

theorem gateAfterOther_closed {g : Gate} (hg : g ≠ .opened) : gateAfterOther g = .closed := by
  cases g
  case opened => exact absurd rfl hg
  all_goals rfl

/-! ## A request presented, or answered by the port (R150, R152) -/

/-- A request row with the port IDLE takes the request placed (R150). -/
theorem issue_idle {s : State} {h : Header} {op : PortOp} (hc : s.inColdReset = false)
    (hi : s.port.phase = .idle) :
    issue h op s = .next (settle s (takeRequest h op (placeRequest h op s))) := by
  unfold issue
  rw [event_live hc, offerRequest_idle (s := placeRequest h op s) hi]

/-- A request of the Record Unit that the port does not refuse waits for its grant (R150). -/
theorem exec_rowOf_presented {s : State} {h : Header} {op : UnitOp} (hs : s.inService)
    (hi : s.port.phase = .idle) (hp : portRefuses (gateAfterOther s.gate) op = none) :
    exec (rowOf h op) s = .next { s with
      gate := gateAfterOther s.gate
      port := { s.port with
        phase := .waiting ⟨h, op⟩
        done := false
        requestBlock := storeBytes s.port.requestBlock 0 (encodeRequest h (.unit op)) } } := by
  obtain ⟨hc, hr⟩ := hs
  rw [exec_rowOf, issue_idle hc hi, takeRequest_presented (s := placeRequest _ _ s) hr hp,
    settle_quiet (by rfl)]
  rfl

/-- A request row answered at its taking, with the gate as `g`, leaves what a request answered by
the port leaves (R150, R152, R153). -/
theorem issue_answered {s : State} {h : Header} {op : PortOp} {g : Gate} {r : Reply}
    (hc : s.inColdReset = false) (hi : s.port.phase = .idle)
    (ht : takeRequest h op (placeRequest h op s) =
      respond (portOpCode op) h.tag r { placeRequest h op s with gate := g }) :
    ∃ t, issue h op s = .next t ∧ AnsweredByPort s t h op g r := by
  refine ⟨_, (issue_idle hc hi).trans (by rw [ht]), ?_⟩
  exact {
    unit := by simp
    engine := by simp
    gate := by simp
    port := by rw [settle_port, respond_port]; rfl
    status := by simp
    announced := by unfold Announced; rw [settle_bus_outbound, settle_intOutput]; rfl
    enable := by simp
    sent := by simp
    settings := by simp
    readiness := by simp
    others := by simp }

/-- A request of the Record Unit that the port refuses is answered by the port (R150 steps 6, 7). -/
theorem exec_rowOf_refused {s : State} {h : Header} {op : UnitOp} {r : Reply} (hs : s.inService)
    (hi : s.port.phase = .idle) (hp : portRefuses (gateAfterOther s.gate) op = some r) :
    ∃ t, exec (rowOf h op) s = .next t ∧
      AnsweredByPort s t h (.unit op) (gateAfterOther s.gate) r := by
  obtain ⟨hc, hr⟩ := hs
  rw [exec_rowOf]
  refine issue_answered hc hi ?_
  unfold takeRequest
  rw [if_neg (by simp [hr])]
  simp only [placeRequest_gate, hp]

/-! ## A request served (R15, R152) -/

/-- A request served whose work on the Record Unit goes on beside its grant: the part holds the
Record Unit that the work leaves. -/
theorem served_of_carried {s : State} {h : Header} {op : UnitOp} {v : RecordUnit} {r : Reply}
    (hf : s.portFirst) (hp : portRefuses (gateAfterOther s.gate) op = none)
    (hc : ∀ g a, carryOut (s.unit.start g a) ⟨h, op⟩ = ⟨v.start g a, false, r⟩) :
    ∃ t, CarriesOut (rowOf h op) s t ∧ Served s t h op (s.served v) false r := by
  have hserved := served_of_portFirst (h := h) (op := op) hf hp
  rw [hc] at hserved
  exact hserved

/-- A gated request is served with the gate OPEN (R25). -/
theorem served_gated {s : State} {h : Header} {v : RecordUnit} {r : Reply} (op : UnitOp)
    (hf : s.portFirst) (hg : s.gate = .opened) (ho : isGated op = true)
    (hc : ∀ g a, carryOut (s.unit.start g a) ⟨h, op⟩ = ⟨v.start g a, false, r⟩) :
    ∃ t, CarriesOut (rowOf h op) s t ∧ Served s t h op (s.served v) false r :=
  served_of_carried hf ((portRefuses_gated ho).trans (if_pos (gateAfterOther_opened.2 hg))) hc

/-- Any other request but a SUBMIT_READING is served whatever the gate (R25, R150). -/
theorem served_ungated {s : State} {h : Header} {v : RecordUnit} {r : Reply} (op : UnitOp)
    (hf : s.portFirst) (ho : isGated op = false) (hr : ∀ raw, op ≠ .submitReading raw)
    (hc : ∀ g a, carryOut (s.unit.start g a) ⟨h, op⟩ = ⟨v.start g a, false, r⟩) :
    ∃ t, CarriesOut (rowOf h op) s t ∧ Served s t h op (s.served v) false r :=
  served_of_carried hf (portRefuses_ungated ho hr) hc

/-- Settles O13: a gated request is refused or presented by the gate, and the table reads and
SET_REGION_HOLD pass no check of the port's. -/
theorem gatedRequestsNeedTheOpenGate : Obligations.GatedRequestsNeedTheOpenGate := by
  intro s h op hs hi
  refine ⟨fun hop => ?_, fun hop => ?_⟩
  · have ho : isGated op = true := isGated_iff.2 hop
    refine ⟨fun hg => ?_, fun hg => ?_⟩
    · have hclosed : gateAfterOther s.gate = .closed := gateAfterOther_closed hg
      have hp : portRefuses (gateAfterOther s.gate) op = some (.plain .configClosed []) := by
        rw [portRefuses_gated ho, hclosed]
        rfl
      rw [← hclosed]
      exact exec_rowOf_refused hs hi hp
    · have hopen : gateAfterOther s.gate = .opened := gateAfterOther_opened.2 hg
      have hp : portRefuses (gateAfterOther s.gate) op = none := by
        rw [portRefuses_gated ho, if_pos hopen]
      exact ⟨_, exec_rowOf_presented hs hi hp, rfl, hopen, rfl⟩
  · have hp : portRefuses (gateAfterOther s.gate) op = none := by
      rcases hop with ⟨p, rfl⟩ | ⟨a, rfl⟩ | ⟨a, rfl⟩ | ⟨r, rfl⟩ <;>
        exact portRefuses_ungated rfl nofun
    exact ⟨_, exec_rowOf_presented hs hi hp, rfl, rfl⟩

end Sys2Proof.Machine
end

section
/-! The requests on the Profile, Lot and Region Tables and CLOSE_DAY: what each answers and leaves,
case by case, and the statements about them. -/

namespace Sys2Proof.Machine

open Sys2Proof

/-! ## CLOSE_DAY and SET_REGION_HOLD (R44, R96, R97) -/

theorem carrySetRegionHold_accepted {u : RecordUnit} {a : RegionHoldArgs} {i : Fin 64}
    {mode : HoldMode} (hi : a.region.toNat = i.val) (hm : holdOfCode a.mode.toNat = some mode) :
    carrySetRegionHold u a =
      ⟨u.modifyRegion i fun g => { g with hold := mode }, false,
        .plain .accepted [u8 i.val, u8 mode.code, u8 u.regions[i].closing.code]⟩ := by
  obtain ⟨number, hlt⟩ := i
  obtain rfl : a.region.toNat = number := hi
  unfold carrySetRegionHold
  rw [dif_pos hlt, hm]

theorem carrySetRegionHold_outOfRange {u : RecordUnit} {a : RegionHoldArgs}
    (h : 63 < a.region.toNat ∨ 2 < a.mode.toNat) :
    carrySetRegionHold u a = answer u (.plain .badParameter []) := by
  unfold carrySetRegionHold
  split
  · have hm : holdOfCode a.mode.toNat = none := by
      unfold holdOfCode
      rw [if_neg (by omega), if_neg (by omega), if_neg (by omega)]
    rw [hm]
  · rfl

theorem carryCloseDay_outOfRange {u : RecordUnit} {day : Half}
    (h : day.toNat ≤ u.businessDay ∨ u.businessDay + 7 < day.toNat) :
    carryCloseDay u day =
      answer u (.plain .badParameter [u16 u.businessDay, flag u.sweep.running]) := by
  unfold carryCloseDay
  rw [if_pos h]
  rfl

/-- A CLOSE_DAY whose day is in range goes by the sweep (R96). -/
theorem carryCloseDay_inRange {u : RecordUnit} {day : Half} (hlow : u.businessDay < day.toNat)
    (hhigh : day.toNat ≤ u.businessDay + 7) :
    carryCloseDay u day =
      if u.sweep.running then answer u (.plain .walkActive [u16 u.businessDay, u8 1])
      else ⟨closeDay u day.toNat, false, .plain .accepted [u16 day.toNat, u8 1]⟩ := by
  unfold carryCloseDay
  rw [if_neg (by omega)]
  split
  · rename_i hrun
    unfold closeDayReport
    rw [hrun]
    rfl
  · rfl

/-- Settles O36: the hold request and CLOSE_DAY case by case, neither of them gated. -/
theorem closeDayCapturesTheHoldModes : Obligations.CloseDayCapturesTheHoldModes := by
  intro s h hf
  refine ⟨fun a region hregion mode hmode => ?_, fun a ha => ?_, fun day =>
    ⟨fun hday => ?_, fun hlow hhigh hrun => ?_, fun hlow hhigh hrun => ?_⟩⟩
  · exact served_ungated (.setRegionHold a) hf rfl nofun fun _ _ =>
      carrySetRegionHold_accepted hregion hmode
  · exact served_ungated (.setRegionHold a) hf rfl nofun fun _ _ => carrySetRegionHold_outOfRange ha
  · exact served_ungated (.closeDay day) hf rfl nofun fun g k =>
      carryCloseDay_outOfRange (u := s.unit.start g k) hday
  · exact served_ungated (.closeDay day) hf rfl nofun fun g k =>
      (carryCloseDay_inRange (u := s.unit.start g k) hlow hhigh).trans (if_pos hrun)
  · exact served_ungated (v := closeDay s.unit day.toNat) (.closeDay day) hf rfl nofun fun g k =>
      (carryCloseDay_inRange (u := s.unit.start g k) hlow hhigh).trans (if_neg (by simp [hrun]))

/-! ## READ_PROFILE, READ_LOT, READ_REGION (R33, R41, R45) -/

theorem carryReadProfile_accepted {u : RecordUnit} {n : Byte} {i : Fin 32}
    (hi : n.toNat = i.val) :
    carryReadProfile u n =
      answer u (.plain .accepted (readProfileReport i.val u.profiles[i] u.freeze)) := by
  obtain ⟨number, hlt⟩ := i
  obtain rfl : n.toNat = number := hi
  unfold carryReadProfile
  rw [dif_pos hlt]

theorem carryReadProfile_outOfRange {u : RecordUnit} {n : Byte} (h : 31 < n.toNat) :
    carryReadProfile u n =
      answer u (.plain .badParameter (readProfileReport 0 Profile.unset u.freeze)) := by
  unfold carryReadProfile
  rw [dif_neg (by omega)]

theorem carryReadLot_unknown {u : RecordUnit} {a : ReadLotArgs} (hl : a.lot ≠ 0)
    (hf : u.findLot a.lot = none) :
    carryReadLot u a = answer u (.plain .unknownLot []) := by
  unfold carryReadLot
  rw [if_pos hl, hf]

theorem carryReadLot_outOfRange {u : RecordUnit} {a : ReadLotArgs} (hl : a.lot = 0)
    (he : 63 < a.entry.toNat) :
    carryReadLot u a = answer u (.plain .badParameter []) := by
  unfold carryReadLot
  rw [if_neg (not_not.2 hl), dif_neg (by omega)]

/-- An entry named by its code, or by its number with the code 0 (R41). -/
theorem carryReadLot_accepted {u : RecordUnit} {a : ReadLotArgs} {i : Fin 64}
    (h : a.lot ≠ 0 ∧ u.findLot a.lot = some i ∨ a.lot = 0 ∧ a.entry.toNat = i.val) :
    carryReadLot u a = answer u (.plain .accepted (lotReportFields u i)) := by
  unfold carryReadLot
  rcases h with ⟨hl, hf⟩ | ⟨hl, he⟩
  · rw [if_pos hl, hf]
  · obtain ⟨number, hlt⟩ := i
    obtain rfl : a.entry.toNat = number := he
    rw [if_neg (not_not.2 hl), dif_pos hlt]

theorem carryReadRegion_accepted {u : RecordUnit} {n : Byte} {i : Fin 64} (hi : n.toNat = i.val) :
    carryReadRegion u n =
      answer u (.plain .accepted
        [u8 i.val, u8 u.regions[i].hold.code, u8 u.regions[i].closing.code,
          u16 u.regions[i].liveCount, u16 u.regions[i].attentionCount]) := by
  obtain ⟨number, hlt⟩ := i
  obtain rfl : n.toNat = number := hi
  unfold carryReadRegion
  rw [dif_pos hlt]

theorem carryReadRegion_outOfRange {u : RecordUnit} {n : Byte} (h : 63 < n.toNat) :
    carryReadRegion u n = answer u (.plain .badParameter []) := by
  unfold carryReadRegion
  rw [dif_neg (by omega)]

/-! ## REGION_POLL (R137) -/

/-- A number summed from the powers of 2 whose exponents a test picks has a 1 in just those bits. -/
theorem foldl_two_pow_bits (n : Nat) (p : Fin n → Prop) [DecidablePred p] :
    let m := (List.finRange n).foldl (fun m r => m + if p r then 0 else 2 ^ r.val) 0
    m < 2 ^ n ∧ ∀ r : Fin n, m.testBit r.val = decide (¬p r) := by
  induction n with
  | zero => exact ⟨by simp, fun r => r.elim0⟩
  | succ n ih =>
    obtain ⟨hlt, hbits⟩ := ih fun r => p r.castSucc
    simp only [List.finRange_succ_last, List.foldl_append, List.foldl_map, List.foldl_cons,
      List.foldl_nil, Fin.val_castSucc, Fin.val_last]
    generalize (List.finRange n).foldl _ 0 = m at hlt hbits ⊢
    refine ⟨?_, fun r => ?_⟩
    · split <;> omega
    · cases r using Fin.lastCases with
      | last =>
        split
        · rename_i h
          simp [h, Nat.testBit_lt_two_pow hlt]
        · rename_i h
          simp [h, Nat.add_comm m, Nat.testBit_two_pow_add_eq, Nat.testBit_lt_two_pow hlt]
      | cast r =>
        rw [← hbits r]
        split
        · rfl
        · rw [Nat.add_comm]
          exact Nat.testBit_two_pow_add_gt r.isLt m

theorem regionMap_lt (u : RecordUnit) : regionMap u < 2 ^ 64 :=
  (foldl_two_pow_bits 64 fun r => u.regions[r].attentionCount = 0).1

theorem regionMap_testBit (u : RecordUnit) (r : Fin 64) :
    (regionMap u).testBit r.val = decide (u.regions[r].attentionCount ≠ 0) :=
  (foldl_two_pow_bits 64 fun r => u.regions[r].attentionCount = 0).2 r

/-- Settles O42: each read case by case, none of them gated, and the map of REGION_POLL bit
by bit. -/
theorem tableReadsReportAndChangeNothing : Obligations.TableReadsReportAndChangeNothing := by
  intro s h hf
  have read {r : Reply} (op : UnitOp) (ho : isGated op = false)
      (hr : ∀ raw, op ≠ .submitReading raw)
      (hc : ∀ g a, carryOut (s.unit.start g a) ⟨h, op⟩ = answer (s.unit.start g a) r) :
      ∃ t, CarriesOut (rowOf h op) s t ∧ Served s t h op (s.served s.unit) false r :=
    served_ungated op hf ho hr hc
  refine ⟨fun n => ⟨fun hn => ?_, fun i hi => ?_⟩, fun a => ⟨fun hl hnone => ?_, fun hl he => ?_,
    fun i hi => ?_⟩, fun n => ⟨fun hn => ?_, fun i hi => ?_⟩, ?_⟩
  · exact read (.readProfile n) rfl nofun fun _ _ => carryReadProfile_outOfRange hn
  · exact read (.readProfile n) rfl nofun fun _ _ => carryReadProfile_accepted hi
  · exact read (.readLot a) rfl nofun fun g k =>
      carryReadLot_unknown (u := s.unit.start g k) hl hnone
  · exact read (.readLot a) rfl nofun fun _ _ => carryReadLot_outOfRange hl he
  · exact read (.readLot a) rfl nofun fun g k => carryReadLot_accepted (u := s.unit.start g k) hi
  · exact read (.readRegion n) rfl nofun fun _ _ => carryReadRegion_outOfRange hn
  · exact read (.readRegion n) rfl nofun fun _ _ => carryReadRegion_accepted hi
  · obtain ⟨t, hcarried, hserved⟩ := read (r := (carryRegionPoll s.unit).reply) .regionPoll rfl
      nofun fun _ _ => rfl
    refine ⟨t, regionMap s.unit, _, hcarried, hserved, regionMap_testBit s.unit,
      regionMap_lt s.unit, ?_, fun r => ?_⟩
    · simp [regionNumbers]
    · simp [regionNumbers]

end Sys2Proof.Machine
end

section
/-! The gated requests on the Profile and Lot Tables: what each answers and leaves, case by case,
and the statements about them. -/

namespace Sys2Proof.Machine

open Sys2Proof

/-! ## WRITE_PROFILE and FREEZE_PROFILES (R28, R29, R34) -/

theorem kindOfCode_isSome {code : Nat} (h : code ≤ 3) :
    (kindOfCode code).isSome = !decide (code = 0) := by
  interval_cases code <;> rfl

theorem kindCode_kindOfCode {code : Nat} (h : code ≤ 3) : kindCode (kindOfCode code) = code := by
  interval_cases code <;> rfl

theorem kindOfCode_pos {code : Nat} (h : code ≤ 3) (h0 : code ≠ 0) :
    ∃ kind, kindOfCode code = some kind :=
  Option.isSome_iff_exists.1 (by simpa [kindOfCode_isSome h] using h0)

theorem carryWriteProfile_outOfRange {u : RecordUnit} {a : WriteProfileArgs}
    (h : 31 < a.profile.toNat) :
    carryWriteProfile u a =
      answer u (.plain .badParameter [u8 a.profile.toNat, u8 0, u16 0]) := by
  unfold carryWriteProfile
  rw [dif_neg (by omega)]
  rfl

/-- The range check of R26 as the table of R28 writes it. -/
theorem profileInRange_eq (a : WriteProfileArgs) :
    profileInRange a = decide (
      3 ≤ a.runLimit.toNat ∧ a.runLimit.toNat ≤ 15 ∧ 1 ≤ a.baselineCount.toNat ∧
        a.baselineCount.toNat ≤ 8 ∧ 1 ≤ a.stripInterval.toNat ∧ a.stripInterval.toNat ≤ 7 ∧
        1 ≤ a.lapseLimit.toNat ∧ a.lapseLimit.toNat ≤ 15 ∧ 1 ≤ a.crossoverPairs.toNat ∧
        a.crossoverPairs.toNat ≤ 5 ∧ ∀ q : Fin 4,
          1 ≤ a.limits[q].w.toNat ∧ a.limits[q].w.toNat ≤ 2000 ∧
            a.limits[q].w.toNat ≤ a.limits[q].a.toNat ∧ a.limits[q].a.toNat ≤ 2000 ∧
            a.limits[q].k.toNat ≤ 500 ∧ 1 ≤ a.limits[q].h.toNat ∧ a.limits[q].h.toNat ≤ 5000 ∧
            1 ≤ a.limits[q].tolerance.toNat ∧ a.limits[q].tolerance.toNat ≤ 500) := by
  rw [Bool.eq_iff_iff, decide_eq_true_iff, profileInRange_iff]
  simp only [limitsInRange_iff]

/-- A WRITE_PROFILE of an entry's number goes by the table of R28: refused by its first failing
check, the entry written where none fails. -/
theorem carryWriteProfile_numbered {u : RecordUnit} {a : WriteProfileArgs} {i : Fin 32}
    (hi : a.profile.toNat = i.val) :
    carryWriteProfile u a =
      (firstFailure (profileTable u u.profiles[i] a)).elim
        ⟨u.modifyProfile i fun _ =>
            writtenProfile (kindOfCode a.kind.toNat) a u.profiles[i].useCount, false,
          .plain .accepted (writeProfileReport i.val
            (writtenProfile (kindOfCode a.kind.toNat) a u.profiles[i].useCount))⟩
        fun status => answer u (.plain status (writeProfileReport i.val u.profiles[i])) := by
  obtain ⟨number, hlt⟩ := i
  obtain rfl : a.profile.toNat = number := hi
  unfold carryWriteProfile profileTable
  rw [dif_pos hlt, ← profileInRange_eq]
  dsimp only
  generalize u.profiles[(⟨a.profile.toNat, hlt⟩ : Fin 32)] = entry
  by_cases hkind : a.kind.toNat ≤ 3
  case neg => simp [firstFailure, hkind, Nat.lt_of_not_le hkind]
  rw [if_neg (by omega), kindOfCode_isSome hkind]
  by_cases hrange : (!decide (a.kind.toNat = 0) && !profileInRange a) = true
  case pos =>
    rw [if_pos hrange]
    simp only [Bool.and_eq_true, Bool.not_eq_true', decide_eq_false_iff_not] at hrange
    simp [firstFailure, hkind, hrange]
  rw [if_neg hrange]
  have hrange' : (decide (a.kind.toNat = 0) || profileInRange a) = true := by
    simpa [or_iff_not_imp_left] using hrange
  cases hfreeze : u.freeze
  case true => simp [firstFailure, hkind, hrange']
  by_cases huse : 0 < entry.useCount ∧ kindOfCode a.kind.toNat ≠ entry.kind
  · have h0 : entry.useCount ≠ 0 := by omega
    simp [firstFailure, hkind, hrange', h0, huse]
  · have hfree : entry.useCount = 0 ∨ kindOfCode a.kind.toNat = entry.kind := by
      by_cases h0 : entry.useCount = 0
      · exact .inl h0
      · exact .inr (not_not.1 fun hk => huse ⟨Nat.pos_of_ne_zero h0, hk⟩)
    simp [firstFailure, hkind, hrange', huse, hfree]

theorem carryWriteProfile_refused {u : RecordUnit} {a : WriteProfileArgs} {i : Fin 32}
    {status : Status} (hi : a.profile.toNat = i.val)
    (hs : firstFailure (profileTable u u.profiles[i] a) = some status) :
    carryWriteProfile u a =
      answer u (.plain status (writeProfileReport i.val u.profiles[i])) := by
  rw [carryWriteProfile_numbered hi, hs, Option.elim_some]

theorem map_limitsFrom (limits : Vector LimitArgs 4) :
    limits.map limitsFrom = build4 fun q => limitsFrom limits[q] := by
  ext1 k hk
  rw [Vector.getElem_map]
  exact (build4_getElem (fun q => limitsFrom limits[q]) ⟨k, hk⟩).symm

/-- The entry that a write of a kind of the table, or of NONE, leaves (R28, R29). -/
theorem writtenProfile_kindOfCode {a : WriteProfileArgs} (useCount : Nat)
    (hk : a.kind.toNat ≤ 3) :
    writtenProfile (kindOfCode a.kind.toNat) a useCount =
      if a.kind.toNat = 0 then { Profile.unset with useCount := useCount }
      else
        { kind := kindOfCode a.kind.toNat, runLimit := a.runLimit.toNat
          baselineCount := a.baselineCount.toNat, stripInterval := a.stripInterval.toNat
          lapseLimit := a.lapseLimit.toNat, crossoverPairs := a.crossoverPairs.toNat
          limits := build4 fun q => limitsFrom a.limits[q]
          useCount := useCount } := by
  split
  · rename_i h0
    rw [h0]
    rfl
  · rename_i h0
    obtain ⟨kind, hkind⟩ := kindOfCode_pos hk h0
    rw [hkind, ← map_limitsFrom]
    rfl

/-- The kind a write leaves is the one its request names (R29). -/
theorem kindCode_writtenProfile {a : WriteProfileArgs} (useCount : Nat) (hk : a.kind.toNat ≤ 3) :
    kindCode (writtenProfile (kindOfCode a.kind.toNat) a useCount).kind = a.kind.toNat := by
  have hkind : ∀ k, (writtenProfile k a useCount).kind = k := fun k => by cases k <;> rfl
  rw [hkind, kindCode_kindOfCode hk]

theorem writtenProfile_useCount (kind : Option ProcessKind) (a : WriteProfileArgs)
    (useCount : Nat) : (writtenProfile kind a useCount).useCount = useCount := by
  cases kind <;> rfl

/-- Past the first check of R28 the kind's code names a kind or NONE. -/
theorem kind_le_of_profileTable {u : RecordUnit} {entry : Profile} {a : WriteProfileArgs}
    (h : firstFailure (profileTable u entry a) = none) : a.kind.toNat ≤ 3 := by
  unfold profileTable firstFailure at h
  split at h
  · rename_i hk
    exact of_decide_eq_true hk
  · cases h

theorem carryWriteProfile_accepted {u : RecordUnit} {a : WriteProfileArgs} {i : Fin 32}
    (hi : a.profile.toNat = i.val)
    (hn : firstFailure (profileTable u u.profiles[i] a) = none) :
    carryWriteProfile u a =
      ⟨u.modifyProfile i fun _ =>
          writtenProfile (kindOfCode a.kind.toNat) a u.profiles[i].useCount, false,
        .plain .accepted [u8 i.val, u8 a.kind.toNat, u16 u.profiles[i].useCount]⟩ := by
  have hk : a.kind.toNat ≤ 3 := kind_le_of_profileTable hn
  rw [carryWriteProfile_numbered hi, hn, Option.elim_none, writeProfileReport,
    kindCode_writtenProfile _ hk, writtenProfile_useCount]

/-- Settles O43: the table of R28 gives the first failing check, and the entry written is the one
`writtenProfile` builds. -/
theorem profileWritesReplaceTheEntry : Obligations.ProfileWritesReplaceTheEntry := by
  intro s h hf hg
  refine ⟨?_, fun a => ⟨fun ha => ?_, fun i hi => ⟨fun status hstatus => ?_, fun hnone => ?_⟩⟩⟩
  · exact served_gated (v := { s.unit with freeze := true }) .freezeProfiles hf hg rfl
      fun _ _ => rfl
  · exact served_gated (.writeProfile a) hf hg rfl fun _ _ => carryWriteProfile_outOfRange ha
  · exact served_gated (.writeProfile a) hf hg rfl fun g k =>
      carryWriteProfile_refused (u := s.unit.start g k) hi hstatus
  · refine served_gated (.writeProfile a) hf hg rfl fun g k =>
      (carryWriteProfile_accepted (u := s.unit.start g k) hi hnone).trans ?_
    rw [writtenProfile_kindOfCode _ (kind_le_of_profileTable hnone)]
    rfl

/-! ## ADD_LOT (R38) -/

/-- The ranges of ADD_LOT: a code, a kind, offsets from −500 to +500, and 0 where the kind has no
plot point (R38). -/
def LotInRange (a : AddLotArgs) : Prop :=
  a.lot ≠ 0 ∧ ∃ kind, kindOfCode a.kind.toNat = some kind ∧ ∀ i : Fin 12,
    -500 ≤ a.offsets[i].toInt ∧ a.offsets[i].toInt ≤ 500 ∧
      (isPoint kind i = false → a.offsets[i] = 0)

theorem all_points_iff {p : Fin 12 → Bool} : points.all p = true ↔ ∀ i, p i = true := by
  rw [List.all_eq_true]
  exact ⟨fun h i => h i (mem_points i), fun h i _ => h i⟩

theorem offsetsInRange_iff (v : Vector Half 12) :
    offsetsInRange v = true ↔ ∀ i : Fin 12, -500 ≤ v[i].toInt ∧ v[i].toInt ≤ 500 := by
  simp only [offsetsInRange, all_points_iff, Bool.and_eq_true, decide_eq_true_eq]

theorem offsetsFitKind_iff (kind : ProcessKind) (v : Vector Half 12) :
    offsetsFitKind kind v = true ↔ ∀ i : Fin 12, isPoint kind i = false → v[i] = 0 := by
  simp only [offsetsFitKind, all_points_iff, Bool.or_eq_true, beq_iff_eq, or_iff_not_imp_left,
    Bool.not_eq_true]

theorem lotInRange_iff {a : AddLotArgs} {kind : ProcessKind}
    (hk : kindOfCode a.kind.toNat = some kind) :
    LotInRange a ↔
      ¬(a.lot = 0 ∨ !offsetsInRange a.offsets ∨ !offsetsFitKind kind a.offsets) := by
  simp only [LotInRange, hk, Option.some.injEq, exists_eq_left', not_or, Bool.not_eq_true',
    Bool.not_eq_false, offsetsInRange_iff, offsetsFitKind_iff]
  simp only [forall_and, and_assoc, ne_eq]

theorem carryAddLot_outOfRange {u : RecordUnit} {a : AddLotArgs} (h : ¬LotInRange a) :
    carryAddLot u a = answer u (.plain .badParameter []) := by
  unfold carryAddLot
  split
  · rfl
  · rename_i kind hk
    rw [if_pos (not_not.1 (mt (lotInRange_iff hk).2 h))]

/-- ADD_LOT past its ranges: EXISTS with the entry found, else TABLE_FULL, else the first FREE entry
filled (R38; log 11). -/
theorem carryAddLot_inRange {u : RecordUnit} {a : AddLotArgs} (h : LotInRange a) :
    carryAddLot u a =
      (u.findLot a.lot).elim
        (u.firstFreeLot.elim (answer u (.plain .tableFull [])) fun i =>
          ⟨u.modifyLot i fun _ =>
            { state := .opened, code := a.lot, kind := kindOfCode a.kind.toNat
              offsets := build12 fun j => a.offsets[j].toInt, currentUsers := 0
              incomingUsers := 0 }, false, .plain .accepted [u8 i.val, u32 a.lot.toNat]⟩)
        fun i => answer u (.plain .exists [u8 i.val, u32 a.lot.toNat]) := by
  obtain ⟨kind, hk, -⟩ := h.2
  unfold carryAddLot
  rw [hk]
  dsimp only
  rw [if_neg ((lotInRange_iff hk).1 h)]
  cases hfind : u.findLot a.lot with
  | some i =>
    dsimp only [lotIdReport]
    rw [(findLot_spec hfind).2]
    rfl
  | none => cases u.firstFreeLot <;> rfl

theorem firstFreeLot_eq_find (u : RecordUnit) :
    u.firstFreeLot = Fin.find? fun i : Fin 64 => u.lots[i].state == .free :=
  Fin.find?_eq_find?_finRange.symm

theorem firstFreeLot_eq_none {u : RecordUnit} (h : ∀ i : Fin 64, u.lots[i].state ≠ .free) :
    u.firstFreeLot = none := by
  rw [firstFreeLot_eq_find, Fin.find?_eq_none_iff]
  exact fun i => beq_eq_false_iff_ne.2 (h i)

theorem firstFreeLot_eq_some {u : RecordUnit} {i : Fin 64} (hi : u.lots[i].state = .free)
    (hlow : ∀ j : Fin 64, j < i → u.lots[j].state ≠ .free) : u.firstFreeLot = some i := by
  rw [firstFreeLot_eq_find, Fin.find?_eq_some_iff]
  exact ⟨beq_iff_eq.2 hi, fun j hj => beq_eq_false_iff_ne.2 (hlow j hj)⟩

theorem carryAddLot_exists {u : RecordUnit} {a : AddLotArgs} {i : Fin 64} (h : LotInRange a)
    (hf : u.findLot a.lot = some i) :
    carryAddLot u a = answer u (.plain .exists [u8 i.val, u32 a.lot.toNat]) := by
  rw [carryAddLot_inRange h, hf, Option.elim_some]

theorem carryAddLot_tableFull {u : RecordUnit} {a : AddLotArgs} (h : LotInRange a)
    (hf : u.findLot a.lot = none) (hfull : ∀ i : Fin 64, u.lots[i].state ≠ .free) :
    carryAddLot u a = answer u (.plain .tableFull []) := by
  rw [carryAddLot_inRange h, hf, Option.elim_none, firstFreeLot_eq_none hfull, Option.elim_none]

theorem carryAddLot_accepted {u : RecordUnit} {a : AddLotArgs} {i : Fin 64} (h : LotInRange a)
    (hf : u.findLot a.lot = none) (hi : u.lots[i].state = .free)
    (hlow : ∀ j : Fin 64, j < i → u.lots[j].state ≠ .free) :
    carryAddLot u a =
      ⟨u.modifyLot i fun _ =>
        { state := .opened, code := a.lot, kind := kindOfCode a.kind.toNat
          offsets := build12 fun j => a.offsets[j].toInt, currentUsers := 0
          incomingUsers := 0 }, false, .plain .accepted [u8 i.val, u32 a.lot.toNat]⟩ := by
  rw [carryAddLot_inRange h, hf, Option.elim_none, firstFreeLot_eq_some hi hlow, Option.elim_some]

/-! ## WITHDRAW_LOT and REMOVE_LOT (R39, R40) -/

theorem carryWithdrawLot_zero (u : RecordUnit) :
    carryWithdrawLot u 0 = answer u (.plain .badParameter []) := rfl

theorem carryWithdrawLot_unknown {u : RecordUnit} {code : Word} (hc : code ≠ 0)
    (hf : u.findLot code = none) :
    carryWithdrawLot u code = answer u (.plain .unknownLot []) := by
  unfold carryWithdrawLot
  rw [if_neg hc, hf]

theorem carryWithdrawLot_accepted {u : RecordUnit} {code : Word} {i : Fin 64} (hc : code ≠ 0)
    (hf : u.findLot code = some i) :
    carryWithdrawLot u code =
      ⟨u.modifyLot i fun l => { l with state := .withdrawn }, false,
        .plain .accepted [u8 i.val, u8 2]⟩ := by
  unfold carryWithdrawLot
  rw [if_neg hc, hf]
  rfl

theorem carryRemoveLot_zero (u : RecordUnit) :
    carryRemoveLot u 0 = answer u (.plain .badParameter []) := rfl

theorem carryRemoveLot_unknown {u : RecordUnit} {code : Word} (hc : code ≠ 0)
    (hf : u.findLot code = none) :
    carryRemoveLot u code = answer u (.plain .unknownLot []) := by
  unfold carryRemoveLot
  rw [if_neg hc, hf]

theorem carryRemoveLot_inUse {u : RecordUnit} {code : Word} {i : Fin 64} (hc : code ≠ 0)
    (hf : u.findLot code = some i)
    (hused : 0 < u.lots[i].currentUsers ∨ 0 < u.lots[i].incomingUsers) :
    carryRemoveLot u code = answer u (.plain .inUse [u8 i.val]) := by
  unfold carryRemoveLot
  rw [if_neg hc, hf]
  exact if_pos hused

theorem carryRemoveLot_accepted {u : RecordUnit} {code : Word} {i : Fin 64} (hc : code ≠ 0)
    (hf : u.findLot code = some i) (hcurrent : u.lots[i].currentUsers = 0)
    (hincoming : u.lots[i].incomingUsers = 0) :
    carryRemoveLot u code =
      ⟨u.modifyLot i fun _ => Lot.vacant, false, .plain .accepted [u8 i.val]⟩ := by
  unfold carryRemoveLot
  rw [if_neg hc, hf]
  exact if_neg (by omega)

/-- Settles O44: each request by the entry its code finds, ADD_LOT by the first FREE entry. -/
theorem lotRequestsMoveTheEntry : Obligations.LotRequestsMoveTheEntry := by
  intro s h hf hg
  refine ⟨fun a => ⟨fun hbad => ?_, fun i hgood hfind => ?_, fun hgood hfind hfull => ?_,
    fun i hgood hfind hi hlow => ?_⟩, fun code => ⟨?_, fun hc hfind => ⟨?_, ?_⟩,
    fun i hc hfind => ⟨?_, fun hused => ?_, fun hcurrent hincoming => ?_⟩⟩⟩
  · exact served_gated (.addLot a) hf hg rfl fun _ _ => carryAddLot_outOfRange hbad
  · exact served_gated (.addLot a) hf hg rfl fun g k =>
      carryAddLot_exists (u := s.unit.start g k) hgood hfind
  · exact served_gated (.addLot a) hf hg rfl fun g k =>
      carryAddLot_tableFull (u := s.unit.start g k) hgood hfind hfull
  · exact served_gated (.addLot a) hf hg rfl fun g k =>
      carryAddLot_accepted (u := s.unit.start g k) hgood hfind hi hlow
  · rintro rfl
    exact ⟨served_gated (.withdrawLot 0) hf hg rfl fun _ _ => carryWithdrawLot_zero _,
      served_gated (.removeLot 0) hf hg rfl fun _ _ => carryRemoveLot_zero _⟩
  · exact served_gated (.withdrawLot code) hf hg rfl fun g k =>
      carryWithdrawLot_unknown (u := s.unit.start g k) hc hfind
  · exact served_gated (.removeLot code) hf hg rfl fun g k =>
      carryRemoveLot_unknown (u := s.unit.start g k) hc hfind
  · exact served_gated (.withdrawLot code) hf hg rfl fun g k =>
      carryWithdrawLot_accepted (u := s.unit.start g k) hc hfind
  · exact served_gated (.removeLot code) hf hg rfl fun g k =>
      carryRemoveLot_inUse (u := s.unit.start g k) hc hfind hused
  · exact served_gated (.removeLot code) hf hg rfl fun g k =>
      carryRemoveLot_accepted (u := s.unit.start g k) hc hfind hcurrent hincoming

end Sys2Proof.Machine
end

section
/-! The records against the business day: what day steps, readings and requests leave of the snapshot
and the held reading, what the Day-Close Sweep has passed, and every record kept near the day by every
step. -/

namespace Sys2Proof.Machine

open Sys2Proof

/-! ## One record and a day (R63, R98, R119) -/

/-- A record closed through a day, its snapshot and held reading of that day. -/
structure PartsOn (day : Nat) (r : LineRecord) : Prop where
  closed : r.closedDay = day
  snapshot : ∀ n, r.snapshot = some n → n.day = day
  held : ∀ x, r.crossover = some x → ∀ h, x.held = some h → h.day = day

/-- A record whose parts are of a day, and whose last reading is of it where a snapshot stands. -/
structure OnDay (day : Nat) (r : LineRecord) : Prop where
  parts : PartsOn day r
  last : r.snapshot.isSome = true → r.lastReading = some day

theorem PartsOn.same {day : Nat} {r r' : LineRecord} (h : PartsOn day r)
    (hc : r'.closedDay = r.closedDay) (hn : r'.snapshot = r.snapshot)
    (hx : r'.crossover = r.crossover) : PartsOn day r' :=
  ⟨hc.trans h.closed, by rw [hn]; exact h.snapshot, by rw [hx]; exact h.held⟩

/-- A change that leaves alone what a record has of the day. -/
theorem OnDay.same {day : Nat} {r r' : LineRecord} (h : OnDay day r)
    (hc : r'.closedDay = r.closedDay) (hn : r'.snapshot = r.snapshot)
    (hx : r'.crossover = r.crossover) (hl : r'.lastReading = r.lastReading) : OnDay day r' :=
  ⟨h.parts.same hc hn hx, by rw [hn, hl]; exact h.last⟩

/-- A change that drops the snapshot and leaves no held reading but those the record had. -/
theorem OnDay.dropSnapshot {day : Nat} {r r' : LineRecord} (h : OnDay day r)
    (hc : r'.closedDay = r.closedDay) (hn : r'.snapshot = none)
    (hx : r'.crossover = r.crossover) : OnDay day r' :=
  ⟨⟨hc.trans h.parts.closed, by simp [hn], by rw [hx]; exact h.parts.held⟩, by simp [hn]⟩

/-- A change of the crossover part to one whose held reading, if any, is of the day. -/
theorem OnDay.setCrossover {day : Nat} {r r' : LineRecord} (h : OnDay day r)
    (hc : r'.closedDay = r.closedDay) (hn : r'.snapshot = r.snapshot)
    (hl : r'.lastReading = r.lastReading)
    (hx : ∀ x, r'.crossover = some x → ∀ k, x.held = some k → k.day = day) : OnDay day r' :=
  ⟨⟨hc.trans h.parts.closed, by rw [hn]; exact h.parts.snapshot, hx⟩, by rw [hn, hl]; exact h.last⟩

theorem OnDay.recomputeAttention {day : Nat} {t : Touch} (h : OnDay day t.line) :
    OnDay day t.recomputeAttention.line := by
  rw [recomputeAttention_line]
  exact h.same rfl rfl rfl rfl

/-! ## Day steps (R101, R105) -/

/-- A record without a snapshot and without a held reading. -/
def NoDayParts (r : LineRecord) : Prop :=
  r.snapshot = none ∧ ∀ x, r.crossover = some x → x.held = none

theorem NoDayParts.onDay {r : LineRecord} (h : NoDayParts r) : OnDay r.closedDay r := by
  obtain ⟨hn, hx⟩ := h
  refine ⟨⟨rfl, by simp [hn], fun x hk k hh => ?_⟩, by simp [hn]⟩
  rw [hx x hk] at hh
  cases hh

theorem noDayParts_dropDayParts (r : LineRecord) : NoDayParts r.dropDayParts := by
  refine ⟨rfl, fun x hx => ?_⟩
  obtain ⟨y, -, rfl⟩ := Option.map_eq_some_iff.1 hx
  rfl

theorem noDayParts_lapse (t : Touch) : NoDayParts t.lapse.line := by
  rw [lapse_line, recomputeAttention_line]
  exact ⟨rfl, nofun⟩

theorem NoDayParts.stepRun {t : Touch} (h : NoDayParts t.line) : NoDayParts t.stepRun.line := by
  unfold Touch.stepRun
  dsimp only
  split
  · split
    · exact noDayParts_lapse _
    · exact h
  · exact h

/-- A day step leaves neither snapshot nor held reading (R101). -/
theorem noDayParts_dayStep (t : Touch) : NoDayParts t.dayStep.line := by
  have hd : NoDayParts (t.mapLine LineRecord.dropDayParts).line := noDayParts_dropDayParts t.line
  unfold Touch.dayStep
  dsimp only
  split
  · split
    · exact hd.stepRun
    · exact hd
    · exact hd
  · exact hd

theorem OnDay.daySteps (n : Nat) {t : Touch} (h : OnDay t.line.closedDay t.line) :
    OnDay (Touch.daySteps n t).line.closedDay (Touch.daySteps n t).line := by
  induction n generalizing t with
  | zero => exact h
  | succ n ih => exact ih (noDayParts_dayStep t).onDay

/-- Catch-up brings a record that is not ahead of the business day to it (R98, R99). -/
theorem OnDay.touched {u : RecordUnit} {r : LineRecord} (h : OnDay r.closedDay r)
    (hw : r.closedDay ≤ u.businessDay) : OnDay u.businessDay (touch u r).line := by
  have hd : OnDay (touch u r).line.closedDay (touch u r).line :=
    OnDay.daySteps (t := ⟨r, u, false⟩) _ h
  rwa [touch_closedDay, Nat.max_eq_right hw] at hd

/-! ## Readings (R57 to R63, R119 to R125) -/

/-- An evaluated reading is the last one, of the day of the snapshot that stands (R62, R63). -/
theorem PartsOn.evaluated {day : Nat} {t : Touch} (h : PartsOn day t.line) {readingDay : Nat}
    (hd : t.line.snapshot.isSome = true → readingDay = day) :
    OnDay day (t.evaluated readingDay).line := by
  refine OnDay.recomputeAttention ⟨h.same rfl rfl rfl, fun hs => ?_⟩
  rw [← hd hs]
  rfl

theorem OnDay.completePair {day : Nat} {t : Touch} (h : OnDay day t.line) (x : Crossover)
    (newValues oldValues : Points Int) :
    OnDay day (t.completePair x newValues oldValues).touched.line := by
  unfold Touch.completePair
  dsimp only
  split
  · split
    · rw [switchLot_line]
      exact h.setCrossover rfl rfl rfl nofun
    · exact OnDay.recomputeAttention (t := ⟨_, _, _⟩) (h.setCrossover rfl rfl rfl nofun)
  · refine h.setCrossover rfl rfl rfl ?_
    rintro y ⟨rfl⟩
    exact nofun

/-- A crossover reading of the day leaves no held reading but of the day (R119 to R122). -/
theorem OnDay.meet {day : Nat} {t : Touch} (h : OnDay day t.line) {readingDay : Nat}
    (hd : t.line.crossover.isSome = true → readingDay = day) (side : Side) (values : Points Int) :
    OnDay day (t.meet side readingDay values).touched.line := by
  have held : ∀ x, t.line.crossover = some x →
      OnDay day (t.hold x side readingDay values).line := by
    intro x hx
    refine h.setCrossover rfl rfl rfl ?_
    rintro y ⟨rfl⟩ k ⟨rfl⟩
    exact hd (by rw [hx]; rfl)
  unfold Touch.meet
  dsimp only
  split
  · exact h
  rename_i x hx
  split
  · exact held x hx
  split
  · split
    · split <;> exact h.completePair _ _ _
    · exact h
  · exact held x hx

/-- A baseline reading meets no snapshot (R92). -/
theorem OnDay.handleBaseline {day : Nat} {t : Touch} (h : OnDay day t.line)
    (hn : t.line.snapshot = none) (rd : Reading) (b : Baseline) :
    OnDay day (handleBaseline t rd b).touched.line := by
  refine PartsOn.evaluated (t := (t.takeBaseline b).1) ?_ ?_
  all_goals
    unfold Touch.takeBaseline
    split
  · exact h.parts.same rfl rfl rfl
  · exact h.parts.same rfl rfl rfl
  · exact fun hs => by simp [LineRecord.completeBaseline, LineRecord.resetStats,
      LineRecord.settleLevel, hn] at hs
  · exact fun hs => by simp [hn] at hs

/-- An accepted reading of an ACTIVE record: a snapshot that stands after it is of its day, the
business day (R58 to R60, R63). -/
theorem OnDay.handleActive {t : Touch} (h : OnDay t.unit.businessDay t.line) (hl : LineInv t.line)
    {rd : Reading} {a : Attached} (ha : Admitted t.unit t.line rd a) (corrected : Points Int) :
    OnDay t.unit.businessDay (handleActive t rd a.lot corrected).touched.line := by
  unfold Machine.handleActive
  split
  · rename_i hx
    obtain ⟨x, hx'⟩ := Option.isSome_iff_exists.1 hx
    have hn := (hl.parts.crossing hx').2
    refine OnDay.meet (PartsOn.evaluated (t := t.grade corrected) (h.parts.same rfl rfl rfl) ?_) ?_ _ _
    · exact fun hs => by simp [Touch.grade, LineRecord.settleLevel, hn] at hs
    · exact fun _ => ha.crossover_day hx
  split
  · rename_i hr
    have hrestored : PartsOn t.unit.businessDay t.line.restoreSnapshot ∧
        t.line.restoreSnapshot.snapshot = t.line.snapshot := by
      unfold LineRecord.restoreSnapshot
      split
      · exact ⟨h.parts, rfl⟩
      · exact ⟨h.parts.same rfl rfl rfl, rfl⟩
    refine PartsOn.evaluated (t := (t.mapLine (·.restoreSnapshot)).grade corrected)
      (hrestored.1.same rfl rfl rfl) fun hs => ?_
    have hrep := ha.replaces hr
    obtain ⟨n, hn⟩ := Option.isSome_iff_exists.1 (hrestored.2 ▸ hs)
    simp only [replaceable, hn, Option.elim_some, Bool.and_eq_true, decide_eq_true_eq] at hrep
    exact hrep.2.1.symm.trans (h.parts.snapshot n hn)
  · dsimp only
    split
    · rename_i hday
      refine PartsOn.evaluated (t := (t.mapLine (·.takeSnapshot rd.day a.lot)).grade corrected)
        ⟨h.parts.closed, ?_, h.parts.held⟩ fun _ => hday
      rintro n ⟨rfl⟩
      exact hday
    · exact PartsOn.evaluated
        (t := (t.mapLine fun r => { r with snapshot := none }).grade corrected)
        ⟨h.parts.closed, nofun, h.parts.held⟩ nofun

theorem OnDay.handled {t : Touch} (h : OnDay t.unit.businessDay t.line) (hl : LineInv t.line)
    {rd : Reading} {a : Attached} (ha : Admitted t.unit t.line rd a) :
    OnDay t.unit.businessDay (handle t rd a).touched.line := by
  have alone : t.line.state ≠ .active → t.line.snapshot = none := fun hs => by
    cases hn : t.line.snapshot with
    | none => rfl
    | some n => exact absurd (hl.parts.snapshot_active hn) hs
  unfold handle
  dsimp only
  split
  · exact OnDay.meet (t := t.bumpVersion) (h.same rfl rfl rfl rfl) ha.crossover_day _ _
  split
  · rename_i hs
    exact h.handleBaseline (alone (by simp [hs])) _ _
  · rename_i hs
    exact h.handleBaseline (alone (by simp [hs])) _ _
  · rename_i hs
    refine PartsOn.evaluated
      (t := (t.mapLine fun r => { r.resetStats with state := .active }).grade _)
      (h.parts.same rfl rfl rfl) fun hk => ?_
    simp [Touch.grade, LineRecord.settleLevel, LineRecord.resetStats,
      alone (by simp [hs])] at hk
  · exact h.handleActive hl ha _
  · exact h

/-! ## Every work on a record -/

/-- Every work on a caught-up record leaves its parts of the business day. -/
theorem OnDay.worked {w t : Touch} (h : OnDay w.unit.businessDay w.line) (hl : LineInv w.line)
    (hw : Worked w t) : OnDay w.unit.businessDay t.line := by
  cases hw with
  | read => exact h
  | moved region =>
    rw [Touch.bumpVersion_line, moveRegion_line]
    exact h.same rfl rfl rfl rfl
  | profiled profile =>
    rw [Touch.bumpVersion_line, moveProfile_line]
    exact h.same rfl rfl rfl rfl
  | aimed | driftCleared => exact OnDay.recomputeAttention (h.dropSnapshot rfl rfl rfl)
  | lotSet lot =>
    rw [Touch.bumpVersion_line, Touch.mapLine_line, moveLotCounts_line]
    exact h.dropSnapshot rfl rfl rfl
  | opened lot =>
    refine ⟨⟨h.parts.closed, nofun, ?_⟩, nofun⟩
    rintro x ⟨rfl⟩
    exact nofun
  | cancelled x => exact h.setCrossover rfl rfl rfl nofun
  | acknowledged => exact OnDay.recomputeAttention (h.same rfl rfl rfl rfl)
  | reinstated | marked => exact h.same rfl rfl rfl rfl
  | handled rd a ha => exact h.handled hl (admitReading_ok ha)

/-! ## Every record of the Record Unit -/

/-- A record against the business day and the sweep (R63, R98, R119). -/
structure NearDay (u : RecordUnit) (r : LineRecord) : Prop where
  reached : r.closedDay ≤ u.businessDay
  recent : u.businessDay ≤ r.closedDay + 7
  closed : u.sweep.running = false ∨ r.slot < u.sweep.pointer → r.closedDay = u.businessDay
  parts : OnDay r.closedDay r

/-- Every live record near the business day. -/
def AllNear (u : RecordUnit) : Prop := ∀ r ∈ u.records, NearDay u r

theorem closedInv_iff (s : State) :
    ClosedInv s ↔ s.unit.businessDay ≤ 65535 ∧ AllNear s.unit := by
  constructor
  · rintro ⟨hb, hw, hc, hs, hh⟩
    refine ⟨hb, fun r hr => ⟨(hw r hr).1, (hw r hr).2, hc r hr,
      ⟨rfl, fun n hn => (hs r hr n hn).1, hh r hr⟩, fun hk => ?_⟩⟩
    obtain ⟨n, hn⟩ := Option.isSome_iff_exists.1 hk
    obtain ⟨hday, hlast⟩ := hs r hr n hn
    rw [hlast, hday]
  · rintro ⟨hb, ha⟩
    refine ⟨hb, fun r hr => ⟨(ha r hr).reached, (ha r hr).recent⟩, fun r hr => (ha r hr).closed,
      fun r hr n hn => ?_, fun r hr => (ha r hr).parts.parts.held⟩
    have hday := (ha r hr).parts.parts.snapshot n hn
    exact ⟨hday, by rw [(ha r hr).parts.last (by rw [hn]; rfl), hday]⟩

/-- A record closed through the business day is near it, wherever the sweep stands. -/
theorem OnDay.nearDay {u : RecordUnit} {r : LineRecord} (h : OnDay u.businessDay r) :
    NearDay u r := by
  have hc := h.parts.closed
  exact ⟨by omega, by omega, fun _ => hc, hc ▸ h⟩

/-- The same records, business day and sweep. -/
structure SameDays (u v : RecordUnit) : Prop where
  records : v.records = u.records
  businessDay : v.businessDay = u.businessDay
  sweep : v.sweep = u.sweep

theorem SameDays.refl (u : RecordUnit) : SameDays u u := ⟨rfl, rfl, rfl⟩

theorem NearDay.congr {u v : RecordUnit} {r : LineRecord} (h : NearDay u r)
    (hb : v.businessDay = u.businessDay) (hs : v.sweep = u.sweep) : NearDay v r :=
  ⟨by rw [hb]; exact h.reached, by rw [hb]; exact h.recent, by rw [hb, hs]; exact h.closed, h.parts⟩

theorem AllNear.congr {u v : RecordUnit} (h : AllNear u) (hd : SameDays u v) : AllNear v :=
  fun r hr => (h r (hd.records ▸ hr)).congr hd.businessDay hd.sweep

/-- Counts are nothing to the business day and the sweep. -/
theorem CountsOnly.days {u v : RecordUnit} (h : CountsOnly u v) :
    v.businessDay = u.businessDay ∧ v.sweep = u.sweep := by
  obtain ⟨_, _, _, _, _, hb, _, hs, _⟩ := h.fields
  exact ⟨hb, hs⟩

/-- The business day and the sweep after work on one record. -/
theorem Worked.commit_days {u : RecordUnit} {r : LineRecord} {t : Touch}
    (h : Worked (touch u r) t) :
    t.commit.businessDay = u.businessDay ∧ t.commit.sweep = u.sweep :=
  h.frame_touch.unit.days

/-- A live record after work on it is closed through the business day. -/
theorem AllNear.worked {u : RecordUnit} (h : AllNear u) (hl : ∀ x ∈ u.records, LineInv x)
    {r : LineRecord} (hr : r ∈ u.records) {t : Touch} (hw : Worked (touch u r) t) :
    OnDay u.businessDay t.line := by
  have hday : (touch u r).unit.businessDay = u.businessDay :=
    (touch_kept u r).workFrame.unit.days.1
  rw [← hday]
  refine OnDay.worked ?_ ((hl r hr).touched u) hw
  rw [hday]
  exact (h r hr).parts.touched (h r hr).reached

theorem AllNear.commit {u : RecordUnit} (h : AllNear u) (hl : ∀ x ∈ u.records, LineInv x)
    {r : LineRecord} (hr : r ∈ u.records) {t : Touch} (hw : Worked (touch u r) t) :
    AllNear t.commit := by
  obtain ⟨hb, hs⟩ := hw.commit_days
  refine hw.forall_records (fun x hx => (h x hx).congr hb hs) (OnDay.nearDay ?_)
  rw [hb]
  exact h.worked hl hr hw

theorem onDay_newRecord (slot site lineNo : Nat) (region : Fin 64) (kind : ProcessKind)
    (profile : Fin 32) (day : Nat) (lot : Option (Fin 64)) :
    OnDay day (newRecord slot site lineNo region kind profile day lot) :=
  ⟨⟨rfl, nofun, nofun⟩, nofun⟩

/-- The business day and the sweep of a retired record's Record Unit. -/
theorem retireRecord_days (u : RecordUnit) (r : LineRecord) :
    (retireRecord u r).businessDay = u.businessDay ∧ (retireRecord u r).sweep = u.sweep :=
  (countsOnly_retireCounts u r).days

/-- CLOSE_DAY, taken only with the sweep over, leaves every record at most 7 days behind, and none
that the sweep has passed (R96 to R98). -/
theorem AllNear.closeDay {u : RecordUnit} (h : AllNear u) (hslot : ∀ r ∈ u.records, 1 ≤ r.slot)
    {day : Nat} (hd : u.businessDay < day) (hw : day ≤ u.businessDay + 7)
    (hs : u.sweep.running = false) : AllNear (closeDay u day) := by
  intro r hr
  have hc := (h r hr).closed (.inl hs)
  refine ⟨?_, ?_, ?_, (h r hr).parts⟩
  · show r.closedDay ≤ day
    omega
  · show day ≤ r.closedDay + 7
    omega
  · rintro (hk | hk)
    · cases hk
    · exact absurd (hslot r hr) (Nat.not_le.2 hk)

/-- Every work of the Record Unit keeps every record near the business day. -/
theorem Effect.near {u v : RecordUnit} (he : Effect u v)
    (hrise : u.records.Pairwise fun a b => a.slot < b.slot) (hslot : ∀ r ∈ u.records, 1 ≤ r.slot)
    (hl : ∀ r ∈ u.records, LineInv r) (h : AllNear u) : AllNear v := by
  cases he with
  | stands => exact h
  | worked hr hw => exact h.commit hl hr hw
  | created region ht =>
    unfold RecordUnit.takeSlot at ht
    split at ht <;> cases ht
    obtain ⟨hb, hs⟩ := (createRecord_counts
      { u with ringHead := (u.ringHead + 1) % 4096 } _).days
    intro r hr
    rw [createRecord_records, mem_insertRecord] at hr
    obtain rfl | hr := hr
    · exact (onDay_newRecord ..).nearDay.congr hb hs
    · exact (h r hr).congr hb hs
  | @retired r hr =>
    obtain ⟨hb, hs⟩ := retireRecord_days (touch u r).unit (touch u r).line
    have hcounts := (touch_kept u r).workFrame.unit
    obtain ⟨hb', hs'⟩ := hcounts.days
    intro x hx
    rw [retireRecord_records, hcounts.records] at hx
    exact (h x (List.mem_filter.1 hx).1).congr (hb.trans hb') (hs.trans hs')
  | scanned hv =>
    exact (walked_keeps (P := fun v => (∀ r ∈ v.records, LineInv r) ∧ AllNear v)
      (fun _ hr hp => ⟨(Effect.worked hr .read).lines hp.1, hp.2.commit hp.1 hr .read⟩)
      hrise hv ⟨hl, h⟩).2
  | dayClosed day hd hw hs => exact h.closeDay hslot hd hw hs
  | profileWritten | profilesFrozen | lotAdded | lotWithdrawn | lotRemoved | holdSet
  | surveyStarted | surveyStopped => exact h.congr ⟨rfl, rfl, rfl⟩

theorem Effect.day_bound {u v : RecordUnit} (he : Effect u v) (h : u.businessDay ≤ 65535) :
    v.businessDay ≤ 65535 := by
  cases he with
  | worked hr hw => rw [hw.commit_days.1]; exact h
  | created region ht =>
    unfold RecordUnit.takeSlot at ht
    split at ht <;> cases ht
    rw [(createRecord_counts { u with ringHead := (u.ringHead + 1) % 4096 } _).days.1]
    exact h
  | @retired r hr =>
    rw [(retireRecord_days _ _).1, (touch_kept u r).workFrame.unit.days.1]
    exact h
  | @scanned visited hv =>
    clear hv
    unfold walked
    induction visited generalizing u with
    | nil => exact h
    | cons r rest ih =>
      refine ih ?_
      rw [Worked.commit_days .read |>.1]
      exact h
  | dayClosed day => exact Nat.le_of_lt_succ day.isLt
  | stands | profileWritten | profilesFrozen | lotAdded | lotWithdrawn | lotRemoved | holdSet
  | surveyStarted | surveyStopped => exact h

/-! ## The Day-Close Sweep (R112) -/

/-- The record a walk reaches is the lowest live one at or above the slot it starts from. -/
theorem nextLive_lowest {u : RecordUnit} (hrise : u.records.Pairwise fun a b => a.slot < b.slot)
    {slot : Nat} {r : LineRecord} (h : u.nextLive slot = some r) {x : LineRecord}
    (hx : x ∈ u.records) (hs : slot ≤ x.slot) : r.slot ≤ x.slot := by
  obtain ⟨-, before, after, hrec, hb⟩ := List.find?_eq_some_iff_append.1 h
  rw [hrec] at hx hrise
  obtain hx | hx := List.mem_append.1 hx
  · have := hb x hx
    simp only [Bool.not_eq_true', decide_eq_false_iff_not] at this
    exact absurd hs this
  obtain rfl | hx := List.mem_cons.1 hx
  · exact Nat.le_refl _
  · exact Nat.le_of_lt ((List.pairwise_cons.1 (List.pairwise_append.1 hrise).2.1).1 x hx)

/-- A sweep step closes the lowest live record it has not passed, and ends only when it has passed
every one (R112). -/
theorem AllNear.swept {u : RecordUnit} (h : AllNear u)
    (hrise : u.records.Pairwise fun a b => a.slot < b.slot)
    (hslot : ∀ r ∈ u.records, r.slot ≤ lastSlot) (hl : ∀ r ∈ u.records, LineInv r) :
    AllNear (sweepWalk u).unit := by
  unfold sweepWalk
  split
  · rename_i hnone
    exact fun r hr => ⟨(h r hr).reached, (h r hr).recent,
      fun _ => (h r hr).closed (.inr (nextLive_none hnone r hr)), (h r hr).parts⟩
  · rename_i r hnext
    have hr := (nextLive_spec hnext).1
    have hw : Worked (touch u r) (touch u r) := .read
    have hb := hw.commit_days.1
    have passed : ∀ x ∈ (touch u r).commit.records, NearDay (touch u r).commit x ∧
        (u.sweep.running = false ∨ x.slot < r.slot + 1 → x.closedDay = u.businessDay) := by
      intro x hx
      refine ⟨h.commit hl hr hw x hx, fun hk => ?_⟩
      rw [hw.commit_records] at hx
      obtain ⟨y, hy, rfl⟩ := List.mem_map.1 hx
      by_cases he : y.slot = r.slot
      · rw [if_pos he]
        exact (h.worked hl hr hw).parts.closed
      · rw [if_neg he] at hk ⊢
        refine (h y hy).closed (hk.imp_right fun hlt => ?_)
        by_contra hge
        have := nextLive_lowest hrise hnext hy (Nat.not_lt.1 hge)
        omega
    dsimp only
    split
    · rename_i hend
      intro x hx
      obtain ⟨hnear, hclosed⟩ := passed x hx
      refine ⟨hnear.reached, hnear.recent, fun _ => ?_, hnear.parts⟩
      have hle : x.slot ≤ lastSlot := by
        have hmem : x.slot ∈ (touch u r).commit.records.map (·.slot) := List.mem_map_of_mem hx
        unfold Touch.commit at hmem
        rw [slots_putRecord, hw.frame_touch.unit.records] at hmem
        obtain ⟨y, hy, he⟩ := List.mem_map.1 hmem
        exact he ▸ hslot y hy
      exact (hclosed (.inr (by omega))).trans hb.symm
    · intro x hx
      obtain ⟨hnear, hclosed⟩ := passed x hx
      exact ⟨hnear.reached, hnear.recent, fun hk => (hclosed hk).trans hb.symm, hnear.parts⟩

theorem sweepWalk_businessDay (u : RecordUnit) :
    (sweepWalk u).unit.businessDay = u.businessDay := by
  unfold sweepWalk
  split
  · rfl
  · rename_i r _
    have hb := (Worked.commit_days (u := u) (r := r) .read).1
    dsimp only
    split <;> exact hb

/-! ## Every step -/

/-- What an action does to the records, the business day and the sweep. -/
inductive DayMove (s t : State) : Prop
  | worked (v : RecordUnit) (he : Effect s.unit v) (hv : SameDays v t.unit)
  | swept (hv : SameDays (sweepWalk s.unit).unit t.unit)
  | initialised (hr : t.unit.records = []) (hb : t.unit.businessDay = s.unit.businessDay)

theorem DayMove.of_unit {s t : State} (hu : t.unit = s.unit) : DayMove s t :=
  .worked s.unit .stands (hu ▸ .refl _)

/-- A Margin Survey step works on one record at most, and leaves day and sweep alone (R144). -/
theorem surveyWalk_days (u : RecordUnit) :
    ∃ v, Effect u v ∧ SameDays v (surveyWalk u).unit := by
  unfold surveyWalk
  split
  · exact ⟨u, .stands, rfl, rfl, rfl⟩
  · rename_i r hr
    refine ⟨_, .worked (nextLive_spec hr).1 (.marked
      (marginalTest (touch u r).profile u.survey.margin (touch u r).line)), ?_⟩
    dsimp only
    split <;> exact ⟨rfl, rfl, rfl⟩

theorem finishWalk_unit (w : Walked) (src : Source) (s : State) :
    (finishWalk w src s).unit = { w.unit with inProgress := none } := by
  unfold finishWalk
  cases w.ended <;> simp

theorem grant_sameDays (s : State) : SameDays s.unit (grant s).unit := by
  unfold grant
  split
  · exact .refl _
  · dsimp only
    split <;> exact ⟨rfl, rfl, rfl⟩

theorem completeCommand_dayMove (s : State) : DayMove s (completeCommand s) := by
  unfold completeCommand
  split
  · rename_i req discarded _
    refine .worked _ (carryOut_effect s.unit req) ?_
    dsimp only
    split <;> simp only [respond_unit, State.latchAttention_unit] <;> exact ⟨rfl, rfl, rfl⟩
  · exact .of_unit rfl

theorem completeReading_dayMove (s : State) : DayMove s (completeReading s) := by
  unfold completeReading
  split
  · rename_i data discarded _
    have hb := fun t => onlyBatch_processReading t (carryReading s.unit data).verdict
    refine .worked _ (carryReading_effect s.unit data) ?_
    dsimp only
    split <;> simp only [(hb _).unit, State.latchAttention_unit] <;> exact ⟨rfl, rfl, rfl⟩
  · exact .of_unit rfl

theorem Acts.dayMove {s t : State} (h : Acts s t) : DayMove s t := by
  cases h with
  | blockWritten | overrunCleared | sourcesCleared | enablesWritten => exact .of_unit rfl
  | offered h op => exact .of_unit (onlyPort_offerRequest h op s).unit
  | portReset =>
    refine .worked s.unit .stands ?_
    unfold Machine.portReset
    simp only [State.discardOutbound_unit]
    exact ⟨rfl, rfl, rfl⟩
  | batch hb => exact .of_unit hb.onlyBatch.unit
  | initialised =>
    unfold initialise
    split
    · exact .of_unit rfl
    · exact .initialised rfl rfl
  | granted => exact .worked s.unit .stands (grant_sameDays s)
  | commandCompleted => exact completeCommand_dayMove s
  | readingCompleted => exact completeReading_dayMove s
  | sweepStepped =>
    unfold sweepStep
    split
    · refine .swept ?_
      rw [finishWalk_unit]
      exact ⟨rfl, rfl, rfl⟩
    · exact .of_unit rfl
  | surveyStepped =>
    unfold surveyStep
    split
    · obtain ⟨v, he, hv⟩ := surveyWalk_days s.unit
      refine .worked v he ?_
      rw [finishWalk_unit]
      exact ⟨hv.records, hv.businessDay, hv.sweep⟩
    · exact .of_unit rfl

theorem DayMove.closed {s t : State} (hm : DayMove s t) (ht : TableInv s) (hl : LinesInv s)
    (h : ClosedInv s) : ClosedInv t := by
  obtain ⟨hb, ha⟩ := (closedInv_iff s).1 h
  rw [closedInv_iff]
  cases hm with
  | worked v he hv =>
    rw [hv.businessDay]
    exact ⟨he.day_bound hb,
      (he.near ht.slots_rise (fun r hr => (ht.slots_range r hr).1) hl ha).congr hv⟩
  | swept hv =>
    rw [hv.businessDay, sweepWalk_businessDay]
    exact ⟨hb, (ha.swept ht.slots_rise (fun r hr => (ht.slots_range r hr).2) hl).congr hv⟩
  | initialised hr hday =>
    unfold AllNear
    rw [hday, hr]
    exact ⟨hb, fun r hm => absurd hm List.not_mem_nil⟩

/-- The business day and the records rest on the Record Unit alone. -/
theorem ClosedInv.of_unit {s t : State} (h : ClosedInv s) (hu : t.unit = s.unit) : ClosedInv t :=
  (closedInv_iff t).2 (hu ▸ (closedInv_iff s).1 h)

theorem closedInv_reset {s : State} (hu : s.unit = RecordUnit.reset) : ClosedInv s := by
  have hb : s.unit.businessDay = 0 := by rw [hu]; rfl
  have hr : s.unit.records = [] := by rw [hu]; rfl
  rw [closedInv_iff, hb]
  exact ⟨Nat.zero_le _, fun r hm => by rw [hr] at hm; cases hm⟩

theorem closedInv_kept : KeptByActions fun s => TableInv s ∧ LinesInv s ∧ ClosedInv s where
  queue s rest := fun ⟨ht, hl, h⟩ =>
    ⟨tableInv_kept.queue s rest ht, linesInv_kept.queue s rest hl,
      h.of_unit (t := { s with pending := rest }) rfl⟩
  sent s := fun ⟨ht, hl, h⟩ =>
    ⟨tableInv_kept.sent s ht, linesInv_kept.sent s hl, h.of_unit (State.sendOldest_unit s)⟩
  settled before s := fun ⟨ht, hl, h⟩ =>
    ⟨tableInv_kept.settled before s ht, linesInv_kept.settled before s hl,
      h.of_unit (settle_unit before s)⟩
  cold held s := ⟨tableInv_kept.cold held s, linesInv_kept.cold held s,
    closedInv_reset rfl⟩
  acts s t hc ha := fun ⟨ht, hl, h⟩ => ⟨tableInv_kept.acts s t hc ha ht,
    linesInv_kept.acts s t hc ha hl, ha.dayMove.closed ht hl h⟩

/-- Settles O60: each work closes its record through the business day, CLOSE_DAY waits for the sweep,
and the sweep closes the live records in slot order. -/
theorem stepKeepsRecordsNearTheDay : Obligations.StepKeepsRecordsNearTheDay :=
  fun _ _ ht hl h hs => (closedInv_kept.step hs ⟨ht, hl, h⟩).2.2

end Sys2Proof.Machine
end

section
/-! A reading carried out while a request is under way is the reading carried out with none: what
handles it does not read the request or the arbiter. A SUBMIT_READING is then served by the reading
carried out on the Record Unit as it stood. -/

namespace Sys2Proof.Machine

open Sys2Proof

/-! ## Independence of the request under way -/

theorem restart_switchLot (g : Option Grant) (a : Arbiter) (t : Touch) (x : Crossover) :
    (t.restart g a).switchLot x = (t.switchLot x).restart g a := by
  have hl : (t.restart g a).line = t.line := rfl
  unfold Touch.switchLot
  rw [hl]
  cases t.line.lot <;> rfl

theorem restart_mismatchCrossover (g : Option Grant) (a : Arbiter) (t : Touch) (x : Crossover) :
    (t.restart g a).mismatchCrossover x = (t.mismatchCrossover x).restart g a := by
  unfold Touch.mismatchCrossover
  rw [← restart_recomputeAttention]
  rfl

theorem restart_grade (g : Option Grant) (a : Arbiter) (t : Touch) (corrected : Points Int) :
    (t.restart g a).grade corrected = (t.grade corrected).restart g a := rfl

theorem restart_evaluated (g : Option Grant) (a : Arbiter) (t : Touch) (day : Nat) :
    (t.restart g a).evaluated day = (t.evaluated day).restart g a := by
  unfold Touch.evaluated
  rw [← restart_recomputeAttention]
  rfl

/-- What handling a reading gives, with another request under way and another arbiter. -/
def Handled.restart (g : Option Grant) (a : Arbiter) (d : Handled) : Handled :=
  { d with touched := d.touched.restart g a }

theorem restart_handled (g : Option Grant) (a : Arbiter) (t : Touch) (outcome : ReadingOutcome)
    (ended : Option Nat) :
    Handled.restart g a ⟨t, outcome, ended⟩ = ⟨t.restart g a, outcome, ended⟩ := rfl

theorem restart_completePair (g : Option Grant) (a : Arbiter) (t : Touch) (x : Crossover)
    (newValues oldValues : Points Int) :
    (t.restart g a).completePair x newValues oldValues =
      (t.completePair x newValues oldValues).restart g a := by
  have hl : (t.restart g a).line = t.line := rfl
  have hp : (t.restart g a).profile = t.profile := rfl
  unfold Touch.completePair
  rw [hl, hp]
  dsimp only
  split
  · split
    · rw [restart_switchLot, restart_handled]
    · rw [restart_mismatchCrossover, restart_handled]
  · rfl

theorem restart_meet (g : Option Grant) (a : Arbiter) (t : Touch) (side : Side) (day : Nat)
    (values : Points Int) :
    (t.restart g a).meet side day values = (t.meet side day values).restart g a := by
  have hl : (t.restart g a).line = t.line := rfl
  have ho : ∀ x, bothOpen (t.restart g a) x = bothOpen t x := fun _ => rfl
  unfold Touch.meet
  rw [hl]
  dsimp only
  cases t.line.crossover with
  | none => rfl
  | some x =>
    dsimp only
    cases x.held with
    | none => rfl
    | some k =>
      dsimp only
      rw [ho]
      split
      · split
        · cases side <;> exact restart_completePair g a t _ _ _
        · rfl
      · rfl

theorem restart_takeBaseline (g : Option Grant) (a : Arbiter) (t : Touch) (b : Baseline) :
    (t.restart g a).takeBaseline b =
      ((t.takeBaseline b).1.restart g a, (t.takeBaseline b).2) := by
  have hp : (t.restart g a).profile = t.profile := rfl
  unfold Touch.takeBaseline
  rw [hp]
  split <;> rfl

theorem restart_handleBaseline (g : Option Grant) (a : Arbiter) (t : Touch) (rd : Reading)
    (b : Baseline) :
    handleBaseline (t.restart g a) rd b = (handleBaseline t rd b).restart g a := by
  unfold handleBaseline
  rw [restart_takeBaseline]
  dsimp only
  rw [restart_evaluated, restart_handled]

theorem restart_handleReinstating (g : Option Grant) (a : Arbiter) (t : Touch) (rd : Reading)
    (corrected : Points Int) :
    handleReinstating (t.restart g a) rd corrected =
      (handleReinstating t rd corrected).restart g a := by
  unfold handleReinstating
  dsimp only
  rw [restart_mapLine, restart_grade, restart_evaluated, restart_handled]

theorem restart_handleActive (g : Option Grant) (a : Arbiter) (t : Touch) (rd : Reading)
    (lot : Fin 64) (corrected : Points Int) :
    handleActive (t.restart g a) rd lot corrected =
      (handleActive t rd lot corrected).restart g a := by
  have hl : (t.restart g a).line = t.line := rfl
  have hb : (t.restart g a).unit.businessDay = t.unit.businessDay := rfl
  unfold handleActive
  rw [hl, hb]
  dsimp only
  split
  · rw [restart_grade, restart_evaluated, restart_meet]
  split
  all_goals rw [restart_mapLine, restart_grade, restart_evaluated, restart_handled]

theorem restart_handle (g : Option Grant) (k : Arbiter) (t : Touch) (rd : Reading) (a : Attached) :
    handle (t.restart g k) rd a = (handle t rd a).restart g k := by
  have hl : (t.restart g k).line = t.line := rfl
  have hu : (t.restart g k).unit.lots = t.unit.lots := rfl
  unfold handle
  rw [hl, hu]
  dsimp only
  split
  · exact restart_meet g k t.bumpVersion _ _ _
  split
  · exact restart_handleBaseline ..
  · exact restart_handleBaseline ..
  · exact restart_handleReinstating ..
  · exact restart_handleActive ..
  · rfl

/-- A reading carried out with a request under way and an arbiter carries them along. -/
theorem carryReading_start (u : RecordUnit) (g : Grant) (k : Arbiter) (raw : RawReading) :
    carryReading (u.start g k) raw =
      { carryReading u raw with unit := (carryReading u raw).unit.start g k } := by
  unfold carryReading
  dsimp only
  rw [lookup_start]
  split
  · rfl
  rw [touch_start]
  generalize touch u _ = w
  have ha : admitReading (w.restart (some g) k).unit (w.restart (some g) k).line
      (parseReading raw) = admitReading w.unit w.line (parseReading raw) := rfl
  unfold admitAndHandle
  rw [ha]
  split
  · rfl
  · rw [restart_handle]
    rfl

/-! ## A reading submitted (R47, R161) -/

/-- A SUBMIT_READING whose check code passes is presented whatever the gate (R47, R150). -/
theorem portRefuses_submitReading {raw : RawReading} (hk : checkPasses raw = true) (g : Gate) :
    portRefuses g (.submitReading raw) = none := by
  simp [portRefuses, isGated, hk]

/-- A SUBMIT_READING is served by the reading carried out: its verdict is the response (R161). -/
theorem served_reading {s : State} {raw : RawReading} (h : Header) (hf : s.portFirst)
    (hk : checkPasses raw = true) {g : Graded} (hg : carryReading s.unit raw = g) :
    ∃ t, CarriesOut (.submitReading h raw) s t ∧
      Served s t h (.submitReading raw) (s.served g.unit) g.attention
        ⟨g.verdict.status, g.verdict.slot, g.verdict.version, g.verdict.fields⟩ := by
  have hserved := served_of_portFirst (h := h) (op := .submitReading raw) hf
    (portRefuses_submitReading hk _)
  simp only [carryOut, carrySubmitReading, carryReading_start, hg] at hserved
  exact hserved

end Sys2Proof.Machine
end

section
/-! The port's check of a reading's check code, and the admission checks of a reading that was found:
the status of each refusal is that of the first row of R49 that does not hold. -/

namespace Sys2Proof.Machine

open Sys2Proof

/-! ## The check code (R47, R191) -/

/-- One data bit of the check code, with the register's most significant bit by name. -/
theorem crcBit_eq (register : BitVec 16) (bit : Bool) :
    crcBit register bit =
      (register <<< 1) ^^^ (if (bit ^^ register.msb) = true then 0x1021 else 0) := by
  have hm : register.msb = register.getLsbD 15 := BitVec.msb_eq_getLsbD_last register
  unfold crcBit
  rw [hm]
  split
  · rfl
  · simp

/-- One byte of the check code, its bits counted from the most significant on. -/
theorem crcByte_eq (register : BitVec 16) (b : Byte) :
    crcByte register b =
      (List.range 8).foldl (fun r i => crcBit r (b.getLsbD (7 - i))) register := rfl

theorem checkPasses_iff (raw : RawReading) :
    checkPasses raw = true ↔ checkCode (raw.toList.take 46) = u16At raw.toList 46 := by
  simp [checkPasses]

/-- A SUBMIT_READING whose check code differs is refused whatever the gate (R47, R161). -/
theorem portRefuses_badCheck {raw : RawReading} (hk : checkPasses raw = false) (g : Gate) :
    portRefuses g (.submitReading raw) =
      some (.plain .badCheck (Verdict.noRecord (parseReading raw) .badCheck).fields) := by
  simp [portRefuses, isGated, hk]

/-- Settles O14: the port itself refuses a reading with a failed check code, with the verdict that
concerns no record. -/
theorem failedCheckCodeIsAnsweredByThePort : Obligations.FailedCheckCodeIsAnsweredByThePort := by
  refine ⟨⟨rfl, fun bytes b => ?_, by decide +kernel⟩, fun s h raw hs hi hk => ?_⟩
  · rw [checkCode_append, crcByte_eq]
    simp only [crcBit_eq]
  · have hfails : checkPasses raw = false :=
      Bool.eq_false_iff.2 fun hp => hk ((checkPasses_iff raw).1 hp)
    obtain ⟨hreads, -⟩ := parseReading_reads raw
    obtain ⟨hhost, hsite, hline⟩ := hreads
    rw [← hhost, ← hsite, ← hline]
    exact exec_rowOf_refused hs hi (portRefuses_badCheck hfails _)

/-! ## The admission checks (R49 to R52) -/

theorem firstFailure_cons (holds : Bool) (status : Status) (rest : List (Bool × Status)) :
    firstFailure ((holds, status) :: rest) = if holds then firstFailure rest else some status := rfl

/-- The two parts of check 3. -/
theorem densitiesInRange_eq (kind : ProcessKind) (rd : Reading) :
    densitiesInRange kind rd =
      ((points.all fun i => decide (rd.densities[i].toNat ≤ 5000)) &&
        points.all fun i => isPoint kind i || rd.densities[i] == 0) := by
  rw [Bool.eq_iff_iff, Bool.and_eq_true]
  simp only [densitiesInRange, List.all_eq_true, Bool.and_eq_true, forall_and]

/-- The last three rows of the table are check 10, for a reading with REPLACE clear (R52). -/
theorem dayOrder_eq_firstFailure (r : LineRecord) (rd : Reading) (current : Bool) :
    firstFailure
      [(false || !current || r.lastReading.all fun last => decide (last ≤ rd.day), .outOfOrder),
       (false || !current || r.lastReading.all fun last => decide (last ≠ rd.day), .duplicateDay),
       (false || current || (r.crossover.bind (·.held)).all fun held =>
          decide (¬(held.side = .new ∧ held.day = rd.day)), .duplicateDay)] =
      dayOrder r rd (!current) := by
  unfold dayOrder
  cases current with
  | false =>
    cases hh : r.crossover.bind (·.held) with
    | none => simp [firstFailure]
    | some held =>
      by_cases hd : held.side = .new ∧ held.day = rd.day
      · simp [firstFailure, hd]
      · simp [firstFailure, hd]
  | true =>
    cases hl : r.lastReading with
    | none => simp [firstFailure]
    | some last =>
      by_cases hlt : rd.day < last
      · simp [firstFailure, hlt]
      · by_cases he : last = rd.day
        · simp [firstFailure, he]
        · simp [firstFailure, hlt, he, Ne.symm he]

/-- Admission goes by the table of R49: the status of the first row that does not hold refuses a
reading, and one that fails none is attached to its lot's entry, as the incoming lot where the record's
current lot is another. -/
theorem admitReading_by_table (u : RecordUnit) (r : LineRecord) (rd : Reading) :
    (firstFailure (admissionTable u r rd)).elim
      (∃ lot, u.findLot rd.lotCode = some lot ∧
        admitReading u r rd = .ok ⟨lot, decide (r.lot ≠ some lot)⟩)
      fun status => admitReading u r rd = .error status := by
  unfold admissionTable admitReading
  dsimp only
  by_cases hkind : kindOfCode rd.kind.toNat = some r.kind
  case neg =>
    rw [firstFailure_cons, decide_eq_false hkind, if_pos hkind]
    rfl
  rw [firstFailure_cons, decide_eq_true hkind, if_pos rfl, if_neg (not_not.2 hkind),
    densitiesInRange_eq, firstFailure_cons, firstFailure_cons]
  cases hdensity : points.all fun i => decide (rd.densities[i].toNat ≤ 5000)
  case false => rfl
  cases hspare : points.all fun i => isPoint r.kind i || rd.densities[i] == 0
  case false => rfl
  rw [if_pos rfl, if_pos rfl, if_neg (by decide)]
  by_cases hfuture : u.businessDay < rd.day
  case pos =>
    rw [firstFailure_cons, decide_eq_false (Nat.not_le.2 hfuture), if_pos hfuture]
    rfl
  rw [firstFailure_cons, decide_eq_true (Nat.not_lt.1 hfuture), if_pos rfl, if_neg hfuture]
  by_cases hold : rd.day + 7 < u.businessDay
  case pos =>
    rw [firstFailure_cons, decide_eq_false (Nat.not_le.2 hold), if_pos hold]
    rfl
  rw [firstFailure_cons, decide_eq_true (Nat.not_lt.1 hold), if_pos rfl, if_neg hold]
  cases hlot : u.findLot rd.lotCode with
  | none => rfl
  | some lot =>
    simp only [Option.isSome_some, true_and, Option.any_some]
    rw [firstFailure_cons, if_pos rfl, firstFailure_cons]
    by_cases hwithdrawn : u.lots[lot].state = .withdrawn
    case pos =>
      rw [decide_eq_false (not_not.2 hwithdrawn), if_pos hwithdrawn]
      rfl
    rw [decide_eq_true hwithdrawn, if_pos rfl, if_neg hwithdrawn, firstFailure_cons]
    by_cases hlapsed : r.state = .lapsed
    case pos =>
      rw [decide_eq_false (not_not.2 hlapsed), if_pos hlapsed]
      rfl
    rw [decide_eq_true hlapsed, if_pos rfl, if_neg hlapsed, firstFailure_cons]
    by_cases hattached : r.lot = some lot ∨ r.incomingLot = some lot
    case neg =>
      rw [if_neg (by simpa using hattached), if_pos (not_or.1 hattached)]
      rfl
    rw [if_pos (by simpa using hattached), if_neg (mt not_or.2 (not_not.2 hattached)),
      firstFailure_cons]
    by_cases hcrossing : r.crossover.isSome ∧ rd.day ≠ u.businessDay
    case pos =>
      obtain ⟨hx, hday⟩ := hcrossing
      rw [if_neg (by simp [Option.isSome_iff_ne_none.1 hx, hday]), if_pos ⟨hx, hday⟩]
      rfl
    have hpasses : (r.crossover.isNone || decide (rd.day = u.businessDay)) = true := by
      cases hx : r.crossover <;> simp_all
    rw [if_pos hpasses, if_neg hcrossing, firstFailure_cons]
    cases hreplace : rd.replace with
    | true =>
      have hrow : (!true || (decide (r.state = .active) && r.crossover.isNone &&
          r.snapshot.any fun n => decide (n.day = rd.day) && decide (some n.lot = some lot))) =
          replaceable r rd lot := by
        unfold replaceable
        cases r.snapshot <;> simp
      rw [hrow, if_pos rfl]
      cases replaceable r rd lot with
      | false => rfl
      | true => exact ⟨lot, rfl, rfl⟩
    | false =>
      rw [if_pos (by rfl), dayOrder_eq_firstFailure, if_neg (by decide), ← decide_not]
      cases dayOrder r rd (decide ¬r.lot = some lot) with
      | none => exact ⟨lot, rfl, rfl⟩
      | some status => rfl

/-- A reading that fails a check is refused with the first failing check's status (R49). -/
theorem admitReading_refused {u : RecordUnit} {r : LineRecord} {rd : Reading} {status : Status}
    (h : firstFailure (admissionTable u r rd) = some status) :
    admitReading u r rd = .error status := by
  have ht := admitReading_by_table u r rd
  rw [h] at ht
  exact ht

/-- A reading that fails no check is attached to its lot (R50, R51). -/
theorem admitReading_admitted {u : RecordUnit} {r : LineRecord} {rd : Reading}
    (h : firstFailure (admissionTable u r rd) = none) :
    ∃ lot, u.findLot rd.lotCode = some lot ∧
      admitReading u r rd = .ok ⟨lot, decide (r.lot ≠ some lot)⟩ := by
  have ht := admitReading_by_table u r rd
  rw [h] at ht
  exact ht

end Sys2Proof.Machine
end

section
/-! A reading whose record was found, from admission to verdict: refused with the record as catch-up
left it, or accepted with what its handling leaves. -/

namespace Sys2Proof.Machine

open Sys2Proof

/-! ## Refused and accepted readings (R48 to R54) -/

theorem carryReading_unknown {u : RecordUnit} {raw : RawReading}
    (hl : u.lookup (parseReading raw).site.toNat (parseReading raw).line.toNat = none) :
    carryReading u raw = ⟨u, false, Verdict.noRecord (parseReading raw) .noRecord⟩ := by
  unfold carryReading
  dsimp only
  rw [hl]

theorem carryReading_refused {u : RecordUnit} {raw : RawReading} {r : LineRecord} {status : Status}
    (hl : u.lookup (parseReading raw).site.toNat (parseReading raw).line.toNat = some r)
    (hs : firstFailure (admissionTable (touch u r).unit (touch u r).line (parseReading raw)) =
      some status) :
    carryReading u raw = ⟨(touch u r).commit, (touch u r).attention,
      recordVerdict (parseReading raw) status .none (touch u r).line (touch u r).line
        (touch u r).line.progress⟩ := by
  unfold carryReading
  dsimp only
  rw [hl]
  dsimp only
  unfold admitAndHandle
  rw [admitReading_refused hs]

/-- The crossover progress a verdict reports: that of the last pair where the reading completed it,
else the record's own (R65). -/
def Handled.progress (d : Handled) : Nat × Nat :=
  match d.ended with
  | some n => (n, n)
  | none => d.touched.line.progress

theorem carryReading_accepted {u : RecordUnit} {raw : RawReading} {r : LineRecord} {a : Attached}
    (hl : u.lookup (parseReading raw).site.toNat (parseReading raw).line.toNat = some r)
    (ha : admitReading (touch u r).unit (touch u r).line (parseReading raw) = .ok a)
    {d : Handled} (hd : handle (touch u r) (parseReading raw) a = d) :
    carryReading u raw = ⟨d.touched.commit, d.touched.attention,
      recordVerdict (parseReading raw) .accepted d.outcome (touch u r).line d.touched.line
        d.progress⟩ := by
  unfold carryReading
  dsimp only
  rw [hl]
  dsimp only
  unfold admitAndHandle
  rw [ha, ← hd]
  rfl

/-- Statistics gain no kind over themselves. -/
theorem newKindsOf_self (stats : Points PointStats) :
    newKindsOf stats stats = ⟨false, false, false, false⟩ := by
  simp [newKindsOf]

/-- The verdict on a record that the reading leaves as catch-up left it (R53). -/
theorem recordVerdict_unchanged (rd : Reading) (status : Status) (r : LineRecord) :
    recordVerdict rd status .none r r r.progress =
      { hostTag := rd.hostTag, site := rd.site, line := rd.line, status := status,
        outcome := .none, state := r.state, slot := r.slot, version := r.version,
        level := r.level, ackLevel := r.ackLevel, attention := r.attention,
        newAction := false, newKinds := ⟨false, false, false, false⟩, worst := worstPoint r,
        pairsDone := r.crossover.elim 0 (·.pairsDone),
        pairsRequired := r.crossover.elim 0 (·.pairsRequired), countdown := r.countdown } := by
  have hnew : (decide (r.level ≠ .action) && decide (r.level = .action)) = false := by
    cases r.level <;> rfl
  unfold recordVerdict LineRecord.progress
  rw [hnew, newKindsOf_self]
  cases r.crossover <;> rfl

theorem touch_slot (u : RecordUnit) (r : LineRecord) : (touch u r).line.slot = r.slot :=
  (touch_kept u r).workFrame.line.slot

/-- An accepted reading leaves its record in its slot. -/
theorem handle_slot (u : RecordUnit) (r : LineRecord) (rd : Reading) (a : Attached) :
    (handle (touch u r) rd a).touched.line.slot = r.slot :=
  (workFrame_handle (touch u r) rd a).line.slot.trans (touch_slot u r)

/-- A SUBMIT_READING on a record that was found and admits the reading (R54, R161). -/
theorem served_accepted {s : State} {raw : RawReading} {r : LineRecord} {a : Attached}
    (h : Header) (hf : s.portFirst) (hk : checkPasses raw = true)
    (hl : s.unit.lookup (parseReading raw).site.toNat (parseReading raw).line.toNat = some r)
    (ha : admitReading (touch s.unit r).unit (touch s.unit r).line (parseReading raw) = .ok a)
    {d : Handled} (hd : handle (touch s.unit r) (parseReading raw) a = d) :
    ∃ t, CarriesOut (.submitReading h raw) s t ∧
      Served s t h (.submitReading raw) (s.served d.touched.commit) d.touched.attention
        ⟨.accepted, r.slot, d.touched.line.version,
          (recordVerdict (parseReading raw) .accepted d.outcome (touch s.unit r).line
            d.touched.line d.progress).fields⟩ := by
  have hserved := served_reading h hf hk (carryReading_accepted hl ha hd)
  have hslot : d.touched.line.slot = r.slot := hd ▸ handle_slot s.unit r _ a
  rw [← hslot]
  exact hserved

/-- Settles O28: the reading by its lookup, then by the table of R49. -/
theorem readingStatusIsTheFirstFailingCheck : Obligations.ReadingStatusIsTheFirstFailingCheck := by
  refine ⟨parseReading_reads, fun s h raw hf hk => ⟨fun hl => ?_, fun r hl =>
    ⟨fun status hs => ?_, fun hs => ?_⟩⟩⟩
  · exact served_reading h hf hk (carryReading_unknown hl)
  · have hserved := served_reading h hf hk (carryReading_refused hl hs)
    have hslot := touch_slot s.unit r
    rw [recordVerdict_unchanged] at hserved
    rw [hslot] at hserved
    exact hserved
  · obtain ⟨lot, -, ha⟩ := admitReading_admitted hs
    obtain ⟨t, hcarried, hserved⟩ := served_accepted h hf hk hl ha rfl
    exact ⟨t, _, _, _, _, hcarried, hserved⟩

end Sys2Proof.Machine
end

section
/-! What an accepted reading leaves, state by state: grading and evaluation of an ACTIVE record, the
baseline and reinstating readings, and the crossover reading that is held or forms no pair. -/

namespace Sys2Proof.Machine

open Sys2Proof

/-! ## A touched record with another line -/

/-- The touched record with its line become `y`: its region's attention count follows the bit, and a
passage of the count from 0 latches ATTENTION (R133, R134). -/
def Touch.becomes (w : Touch) (y : LineRecord) : Touch :=
  { line := y
    unit := countFollows w.unit w.line.region w.line.attention y.attention
    attention := w.attention || countPasses w.unit w.line.region w.line.attention y.attention }

theorem becomes_of_attention_eq (w : Touch) {y : LineRecord} (h : y.attention = w.line.attention) :
    w.becomes y = ⟨y, w.unit, w.attention⟩ := by
  unfold Touch.becomes
  rw [h]
  cases w.line.attention <;> simp [countFollows, countPasses]

theorem becomes_mapLine (w : Touch) (y : LineRecord) {f : LineRecord → LineRecord}
    (h : (f y).attention = y.attention) : (w.becomes y).mapLine f = w.becomes (f y) := by
  unfold Touch.becomes Touch.mapLine
  rw [h]

/-- The region and the bit decide what follows a line that becomes another. -/
theorem becomes_congr {t w : Touch} (hu : t.unit = w.unit) (ha : t.attention = w.attention)
    (hr : t.line.region = w.line.region) (hb : t.line.attention = w.line.attention)
    (y : LineRecord) : t.becomes y = w.becomes y := by
  unfold Touch.becomes
  rw [hu, ha, hr, hb]

theorem countFollows_lots (u : RecordUnit) (region : Fin 64) (before after : Bool) :
    (countFollows u region before after).lots = u.lots := by
  cases before <;> cases after <;> rfl

/-- The attention bit recomputed, with the region's count and the latch behind it (R81, R133). -/
theorem recomputeAttention_eq (t : Touch) :
    t.recomputeAttention = t.becomes { t.line with attention := t.line.wantsAttention } := by
  unfold Touch.recomputeAttention
  split
  · rename_i he
    rw [he]
    exact (becomes_of_attention_eq t rfl).symm
  rename_i hne
  split
  · rename_i hw
    have hb : t.line.attention = false := by simpa [hw] using hne
    simp [Touch.becomes, hw, hb, countFollows, countPasses, attentionAtZero, beq_eq_decide]
  · rename_i hw
    have hw : t.line.wantsAttention = false := by simpa using hw
    have hb : t.line.attention = true := by simpa [hw] using hne
    simp [Touch.becomes, hw, hb, countFollows, countPasses]

/-! ## Grading and evaluation (R62, R71) -/

/-- A grading of a record that has its profile's number and aims (R71). -/
theorem grade_eq {w : Touch} {base : LineRecord} {aims : Points Int}
    (hp : base.profile = w.line.profile) (ha : base.aims = some aims) (corrected : Points Int) :
    Touch.grade ⟨base, w.unit, w.attention⟩ corrected =
      ⟨gradedLine w.profile aims corrected base, w.unit, w.attention⟩ := by
  have hprofile : Touch.profile ⟨base, w.unit, w.attention⟩ = w.profile := by
    unfold Touch.profile
    simp only [hp]
  have haims : base.aimValues = aims := by simp [LineRecord.aimValues, ha]
  unfold Touch.grade
  rw [hprofile, ← haims]
  rfl

/-- The effects of an evaluated reading on a record made ready for them (R62). -/
theorem evaluated_eq {w : Touch} {ready : LineRecord} (hr : ready.region = w.line.region)
    (ha : ready.attention = w.line.attention) (hp : ready.profile = w.line.profile) (day : Nat) :
    Touch.evaluated ⟨ready, w.unit, w.attention⟩ day =
      w.becomes (afterEvaluation w.profile.stripInterval w.unit.businessDay day ready) := by
  have hprofile : Touch.profile ⟨ready, w.unit, w.attention⟩ = w.profile := by
    unfold Touch.profile
    simp only [hp]
  unfold Touch.evaluated
  rw [hprofile, recomputeAttention_eq]
  refine becomes_congr (w := w) ?_ ?_ ?_ ?_ _
  · rfl
  · rfl
  · exact hr
  · exact ha

/-- The lot an admitted reading is attached to is the one its code finds. -/
theorem admitReading_of_findLot {u : RecordUnit} {r : LineRecord} {rd : Reading} {lot : Fin 64}
    (h : firstFailure (admissionTable u r rd) = none) (hl : u.findLot rd.lotCode = some lot) :
    admitReading u r rd = .ok ⟨lot, decide (r.lot ≠ some lot)⟩ := by
  obtain ⟨lot', hl', ha⟩ := admitReading_admitted h
  rw [hl] at hl'
  cases hl'
  exact ha

/-- A reading admitted on a record without a crossover is one of its current lot (R51). -/
theorem admitReading_current {u : RecordUnit} {r : LineRecord} {rd : Reading} {lot : Fin 64}
    (h : firstFailure (admissionTable u r rd) = none) (hl : u.findLot rd.lotCode = some lot)
    (hx : r.crossover = none) : admitReading u r rd = .ok ⟨lot, false⟩ := by
  have ha := admitReading_of_findLot h hl
  have hlot : r.lot = some lot := (admitReading_ok ha).attached.resolve_right (by
    rw [incomingLot_none hx]
    exact nofun)
  rw [ha, decide_eq_false (not_not.2 hlot)]

theorem progress_of_none {r : LineRecord} (h : r.crossover = none) : r.progress = (0, 0) := by
  simp [LineRecord.progress, h]

theorem progress_of_some {r : LineRecord} {x : Crossover} (h : r.crossover = some x) :
    r.progress = (x.pairsDone, x.pairsRequired) := by
  simp [LineRecord.progress, h]

/-- A reading that leaves its record as `y`, served. -/
theorem served_becomes {s : State} {raw : RawReading} {r : LineRecord} {a : Attached} (h : Header)
    (hf : s.portFirst) (hk : checkPasses raw = true)
    (hl : s.unit.lookup (parseReading raw).site.toNat (parseReading raw).line.toNat = some r)
    (ha : admitReading (touch s.unit r).unit (touch s.unit r).line (parseReading raw) = .ok a)
    {y : LineRecord} {outcome : ReadingOutcome} {progress : Nat × Nat}
    (hd : handle (touch s.unit r) (parseReading raw) a = ⟨(touch s.unit r).becomes y, outcome, none⟩)
    (hp : y.progress = progress) :
    let w := touch s.unit r
    ∃ t, CarriesOut (.submitReading h raw) s t ∧
      Served s t h (.submitReading raw)
        (s.served ((countFollows w.unit w.line.region w.line.attention y.attention).putRecord y))
        (w.attention || countPasses w.unit w.line.region w.line.attention y.attention)
        ⟨.accepted, r.slot, y.version,
          (recordVerdict (parseReading raw) .accepted outcome w.line y progress).fields⟩ :=
  hp ▸ served_accepted h hf hk hl ha hd

/-! ## The case a reading falls in (R54) -/

theorem handle_incoming (w : Touch) (rd : Reading) (lot : Fin 64) :
    handle w rd ⟨lot, true⟩ = handleIncoming w rd (correctedBy w.unit w.line.kind lot rd) := rfl

theorem handle_new {w : Touch} (hs : w.line.state = .new) (rd : Reading) (lot : Fin 64) :
    handle w rd ⟨lot, false⟩ =
      handleBaseline w rd ⟨1, correctedBy w.unit w.line.kind lot rd⟩ := by
  unfold handle
  dsimp only
  rw [if_neg Bool.false_ne_true, hs]
  rfl

theorem handle_baseline {w : Touch} (hs : w.line.state = .baseline) {b : Baseline}
    (hb : w.line.baseline = some b) (rd : Reading) (lot : Fin 64) :
    handle w rd ⟨lot, false⟩ =
      handleBaseline w rd (b.add (correctedBy w.unit w.line.kind lot rd)) := by
  unfold handle
  dsimp only
  rw [if_neg Bool.false_ne_true, hs, hb]
  rfl

theorem handle_reinstating {w : Touch} (hs : w.line.state = .reinstating) (rd : Reading)
    (lot : Fin 64) :
    handle w rd ⟨lot, false⟩ =
      handleReinstating w rd (correctedBy w.unit w.line.kind lot rd) := by
  unfold handle
  dsimp only
  rw [if_neg Bool.false_ne_true, hs]
  rfl

theorem handle_active {w : Touch} (hs : w.line.state = .active) (rd : Reading) (lot : Fin 64) :
    handle w rd ⟨lot, false⟩ =
      handleActive w rd lot (correctedBy w.unit w.line.kind lot rd) := by
  unfold handle
  dsimp only
  rw [if_neg Bool.false_ne_true, hs]
  rfl

/-! ## An ACTIVE record without a crossover (R58, R59, R63) -/

/-- The record as a reading without a crossover finds it for grading: a REPLACE reading restores the
snapshot, another takes it on the business day and drops it before. -/
def gradingBase (w : Touch) (rd : Reading) (lot : Fin 64) : LineRecord :=
  if rd.replace then w.line.restoreSnapshot
  else if rd.day = w.unit.businessDay then w.line.takeSnapshot rd.day lot
  else { w.line with snapshot := none }

theorem restoreSnapshot_eq (r : LineRecord) :
    r.restoreSnapshot =
      { r with
        stats := r.snapshot.elim r.stats (·.stats)
        level := r.snapshot.elim r.level (·.level) } := by
  cases r
  rename_i snapshot
  cases snapshot <;> rfl

/-- The base of grading, by its snapshot, statistics and level. -/
theorem gradingBase_eq (w : Touch) (rd : Reading) (lot : Fin 64) :
    gradingBase w rd lot =
      if rd.replace then
        { w.line with
          stats := w.line.snapshot.elim w.line.stats (·.stats)
          level := w.line.snapshot.elim w.line.level (·.level) }
      else
        { w.line with
          snapshot := if rd.day = w.unit.businessDay then
              some ⟨rd.day, lot, w.line.stats, w.line.level⟩
            else none } := by
  unfold gradingBase
  rw [restoreSnapshot_eq]
  split
  · rfl
  · split <;> rfl

/-- The base of grading differs from the record in statistics, level and snapshot alone. -/
theorem gradingBase_same (w : Touch) (rd : Reading) (lot : Fin 64) :
    (gradingBase w rd lot).region = w.line.region ∧
      (gradingBase w rd lot).attention = w.line.attention ∧
      (gradingBase w rd lot).profile = w.line.profile ∧
      (gradingBase w rd lot).aims = w.line.aims ∧
      (gradingBase w rd lot).crossover = w.line.crossover := by
  rw [gradingBase_eq]
  split <;> exact ⟨rfl, rfl, rfl, rfl, rfl⟩

theorem handleActive_alone {w : Touch} (hx : w.line.crossover = none) (rd : Reading) (lot : Fin 64)
    (corrected : Points Int) :
    handleActive w rd lot corrected =
      ⟨(Touch.grade ⟨gradingBase w rd lot, w.unit, w.attention⟩ corrected).evaluated rd.day,
        if rd.replace then .replaced else .none, none⟩ := by
  unfold handleActive gradingBase
  rw [if_neg (by simp [hx])]
  cases rd.replace <;> rfl

/-- Settles O29: the reading is graded from the snapshot's side of the record, and evaluated. -/
theorem activeReadingIsGraded : Obligations.ActiveReadingIsGraded := by
  intro s h raw r lot aims hf hk rd w x hl hs hlot hactive hx haims ready y v
  have hready : gradingBase w rd lot = ready := gradingBase_eq w rd lot
  obtain ⟨hregion, hattention, hprofile, haims', hcross⟩ := gradingBase_same w rd lot
  rw [hready] at hregion hattention hprofile haims' hcross
  have hd : handle w rd ⟨lot, false⟩ =
      ⟨w.becomes y, if rd.replace then .replaced else .none, none⟩ := by
    rw [handle_active hactive, handleActive_alone hx, hready, grade_eq hprofile (haims'.trans haims),
      evaluated_eq (ready := gradedLine w.profile aims _ ready) hregion hattention hprofile]
  exact served_becomes h hf hk hl (admitReading_current hs hlot hx) hd
    (progress_of_none (r := y) (hcross.trans hx))

/-! ## The first readings of a record (R55 to R57, R82 to R85) -/

/-- A baseline reading at the profile's baseline count, or below it (R55, R56, R84). -/
theorem handleBaseline_done {w : Touch} {b : Baseline} (hb : w.profile.baselineCount ≤ b.taken)
    (rd : Reading) :
    handleBaseline w rd b =
      ⟨Touch.evaluated ⟨w.line.completeBaseline b, w.unit, w.attention⟩ rd.day, .baselineDone,
        none⟩ := by
  unfold handleBaseline Touch.takeBaseline
  rw [if_pos hb]
  rfl

theorem handleBaseline_taken {w : Touch} {b : Baseline} (hb : b.taken < w.profile.baselineCount)
    (rd : Reading) :
    handleBaseline w rd b =
      ⟨Touch.evaluated ⟨{ w.line with state := .baseline, baseline := some b }, w.unit,
        w.attention⟩ rd.day, .baselineTaken, none⟩ := by
  unfold handleBaseline Touch.takeBaseline
  rw [if_neg (Nat.not_le.2 hb)]
  rfl

/-- Statistics in their starting condition give no level. -/
theorem statsLevel_start : statsLevel startStats = .ok := by decide

theorem min_ok (a : Level) : a.min .ok = .ok := by
  cases a <;> rfl

/-- The statistics reset, with the level and the acknowledged level it brings down (R85). -/
theorem resetStats_eq (r : LineRecord) :
    r.resetStats = { r with stats := startStats, level := .ok, ackLevel := .ok } := by
  unfold LineRecord.resetStats LineRecord.settleLevel
  dsimp only
  rw [statsLevel_start, min_ok]

/-- The record as its first readings leave it for evaluation keeps what the evaluation of an accepted
reading rests on. -/
structure KeepsNames (x ready : LineRecord) : Prop where
  region : ready.region = x.region
  attention : ready.attention = x.attention
  profile : ready.profile = x.profile
  crossover : ready.crossover = x.crossover

/-- A baseline reading evaluates the record with the baseline part or, at the profile's count, the
record whose baseline it completes. -/
theorem handleBaseline_eq {w : Touch} {taken : Nat} {sums : Points Int} {ready : LineRecord}
    {outcome : ReadingOutcome}
    (h : w.profile.baselineCount ≤ taken ∧ outcome = .baselineDone ∧
        ready =
          { w.line with
            aims := some (build12 fun i => roundMean sums[i] taken)
            baseline := none, state := .active, missed := 0, stats := startStats, level := .ok
            ackLevel := .ok } ∨
      taken < w.profile.baselineCount ∧ outcome = .baselineTaken ∧
        ready = { w.line with state := .baseline, baseline := some ⟨taken, sums⟩ })
    (rd : Reading) :
    handleBaseline w rd ⟨taken, sums⟩ =
        ⟨Touch.evaluated ⟨ready, w.unit, w.attention⟩ rd.day, outcome, none⟩ ∧
      KeepsNames w.line ready := by
  obtain ⟨hb, rfl, rfl⟩ | ⟨hb, rfl, rfl⟩ := h
  · refine ⟨?_, rfl, rfl, rfl, rfl⟩
    rw [handleBaseline_done hb]
    unfold LineRecord.completeBaseline
    rw [resetStats_eq]
  · exact ⟨handleBaseline_taken hb rd, rfl, rfl, rfl, rfl⟩

theorem handleReinstating_eq {w : Touch} {aims : Points Int} (ha : w.line.aims = some aims)
    (rd : Reading) (corrected : Points Int) :
    handleReinstating w rd corrected =
      ⟨Touch.evaluated ⟨gradedLine w.profile aims corrected
          { w.line with stats := startStats, level := .ok, ackLevel := .ok, state := .active },
        w.unit, w.attention⟩ rd.day, .reinstated, none⟩ := by
  have hbase : w.mapLine (fun r => { r.resetStats with state := .active }) =
      ⟨{ w.line with stats := startStats, level := .ok, ackLevel := .ok, state := .active },
        w.unit, w.attention⟩ := by
    unfold Touch.mapLine
    simp only [resetStats_eq]
  have hgrade := grade_eq (w := w)
    (base := { w.line with stats := startStats, level := .ok, ackLevel := .ok, state := .active })
    rfl ha corrected
  rw [← hbase] at hgrade
  unfold handleReinstating
  dsimp only
  rw [hgrade]

/-- Settles O30: the baseline part with the reading in it decides between two records; a REINSTATING
record is graded from reset statistics. -/
theorem firstReadingsMakeARecordActive : Obligations.FirstReadingsMakeARecordActive := by
  intro s h raw r lot hf hk rd w x values fresh hl hs hlot hx ready outcome hready y v
  have hd : handle w rd ⟨lot, false⟩ =
      ⟨Touch.evaluated ⟨ready, w.unit, w.attention⟩ rd.day, outcome, none⟩ ∧
      KeepsNames x ready := by
    obtain ⟨taken, sums, hsource, hcount⟩ | ⟨aims, hstate, haims, rfl, rfl⟩ := hready
    · have hbase : handle w rd ⟨lot, false⟩ = handleBaseline w rd ⟨taken, sums⟩ := by
        obtain ⟨hstate, rfl, rfl⟩ | ⟨hstate, b, hb, rfl, rfl⟩ := hsource
        · exact handle_new hstate rd lot
        · exact handle_baseline hstate hb rd lot
      rw [hbase]
      exact handleBaseline_eq hcount rd
    · exact ⟨(handle_reinstating hstate rd lot).trans (handleReinstating_eq haims rd values),
        rfl, rfl, rfl, rfl⟩
  obtain ⟨hd, hn⟩ := hd
  rw [evaluated_eq hn.region hn.attention hn.profile] at hd
  exact served_becomes h hf hk hl (admitReading_current hs hlot hx) hd
    (progress_of_none (r := y) (hn.crossover.trans hx))

end Sys2Proof.Machine
end

section
/-! The crossover reading that is held, or that forms no pair while one of the lots is WITHDRAWN. -/

namespace Sys2Proof.Machine

open Sys2Proof

/-! ## A crossover reading before it meets its partner (R60, R61, R120) -/

theorem beforeMeeting_crossover (w : Touch) (side : Side) (day : Nat) (aims values : Points Int) :
    (beforeMeeting w side day aims values).crossover = w.line.crossover := by
  cases side <;> rfl

theorem beforeMeeting_lot (w : Touch) (side : Side) (day : Nat) (aims values : Points Int) :
    (beforeMeeting w side day aims values).lot = w.line.lot := by
  cases side <;> rfl

theorem handle_crossover {w : Touch} {c : Crossover} {current lot : Fin 64} {aims : Points Int}
    {side : Side} (hactive : w.line.state = .active) (hc : w.line.crossover = some c)
    (hlot : w.line.lot = some current) (haims : w.line.aims = some aims)
    (hside : side = .old ∧ lot = current ∨ side = .new ∧ lot ≠ current) (rd : Reading) :
    let values := correctedBy w.unit w.line.kind lot rd
    handle w rd ⟨lot, decide (w.line.lot ≠ some lot)⟩ =
      (w.becomes (beforeMeeting w side rd.day aims values)).meet side rd.day values := by
  intro values
  obtain ⟨rfl, rfl⟩ | ⟨rfl, hne⟩ := hside
  · rw [hlot, decide_eq_false (not_not.2 rfl), handle_active hactive]
    have hgrade : w.grade values = ⟨gradedLine w.profile aims values w.line, w.unit, w.attention⟩ :=
      grade_eq rfl haims values
    unfold handleActive
    rw [if_pos (by simp [hc]), hgrade,
      evaluated_eq (ready := gradedLine w.profile aims values w.line) rfl rfl rfl]
    rfl
  · rw [hlot, decide_eq_true (by simpa using Ne.symm hne), handle_incoming]
    have hbump : w.bumpVersion = w.becomes { w.line with version := w.line.version + 1 } :=
      (becomes_of_attention_eq w (y := { w.line with version := w.line.version + 1 }) rfl).symm
    unfold handleIncoming
    rw [hbump]
    rfl

/-! ## The meeting without a pair (R119, R121) -/

theorem meet_of_none_held {t : Touch} {c : Crossover} (hc : t.line.crossover = some c)
    (hh : c.held = none) (side : Side) (day : Nat) (values : Points Int) :
    t.meet side day values =
      ⟨t.hold c side day values, if side = .new then .held else .none, none⟩ := by
  unfold Touch.meet
  rw [hc]
  dsimp only
  rw [hh]
  cases side <;> rfl

theorem eq_other_of_ne : ∀ {a b : Side}, a ≠ b → a = b.other
  | .old, .new, _ => rfl
  | .new, .old, _ => rfl
  | .old, .old, h => absurd rfl h
  | .new, .new, h => absurd rfl h

theorem meet_of_blocked {t : Touch} {c : Crossover} {held : Held} {side : Side} {day : Nat}
    (hc : t.line.crossover = some c) (hh : c.held = some held) (hside : held.side ≠ side)
    (hday : held.day = day) (hopen : bothOpen t c = false) (values : Points Int) :
    t.meet side day values = ⟨t, .none, none⟩ := by
  unfold Touch.meet
  rw [hc]
  dsimp only
  rw [hh]
  dsimp only
  rw [if_pos ⟨eq_other_of_ne hside, hday⟩, hopen]
  rfl

theorem bothOpen_becomes (w : Touch) {y : LineRecord} {current : Fin 64}
    (hlot : y.lot = some current) (c : Crossover) :
    bothOpen (w.becomes y) c =
      (w.unit.lots[c.incoming].state == .opened && w.unit.lots[current].state == .opened) := by
  unfold bothOpen Touch.becomes
  dsimp only
  rw [countFollows_lots, hlot]
  rfl

/-- Settles O31: a current-lot reading comes to the meeting evaluated, an incoming-lot reading with
its version alone counted, and from there both sides meet alike. -/
theorem crossoverReadingIsHeldOrBlocked : Obligations.CrossoverReadingIsHeldOrBlocked := by
  intro s h raw r lot current c side aims hf hk rd w x values y hl hs hfind hactive hc hlot haims
    hside answered
  have hyc : y.crossover = some c := (beforeMeeting_crossover ..).trans hc
  have hylot : y.lot = some current := (beforeMeeting_lot ..).trans hlot
  have ha := admitReading_of_findLot hs hfind
  have hmeet := handle_crossover hactive hc hlot haims hside rd
  refine ⟨fun hnone => ?_, fun held hheld hother hday hclosed => ?_⟩
  · have hhold : (w.becomes y).hold c side rd.day values =
        w.becomes { y with crossover := some { c with held := some ⟨side, rd.day, values⟩ } } :=
      becomes_mapLine w y rfl
    have hd := hmeet.trans (meet_of_none_held (t := w.becomes y) hyc hnone side rd.day values)
    rw [hhold] at hd
    exact served_becomes h hf hk hl ha hd
      (progress_of_some (x := { c with held := some ⟨side, rd.day, values⟩ }) rfl)
  · have hopen : bothOpen (w.becomes y) c = false := by
      rw [bothOpen_becomes w hylot]
      simpa [imp_iff_not_or] using hclosed
    exact served_becomes h hf hk hl ha
      (hmeet.trans (meet_of_blocked (t := w.becomes y) hyc hheld hother hday hopen values))
      (progress_of_some hyc)

end Sys2Proof.Machine
end

section
/-! The verdict by either route: what it reports of its record, where the response block holds it, and
where the batch writes it. -/

namespace Sys2Proof.Machine

open Sys2Proof

/-! ## What a verdict reports (R65, R66) -/

/-- A kind is new when some point gained it. -/
theorem gained_iff (kind : Flags → Bool) (before after : Points PointStats) :
    (points.any fun i => kind after[i].flags && !kind before[i].flags) = true ↔
      ∃ i : Fin 12, kind after[i].flags = true ∧ kind before[i].flags = false := by
  simp [List.any_eq_true, mem_points]

/-- One point looked at in the search for the worst. -/
def worstStep (s : Points PointStats) (best : Option (Fin 12 × Int)) (i : Fin 12) :
    Option (Fin 12 × Int) :=
  s[i].lastDev.elim best fun d =>
    best.elim (some (i, d)) fun b => if outranks s b.1 b.2 i d then some (i, d) else best

theorem worstOf_eq (s : Points PointStats) : worstOf s = points.foldl (worstStep s) none := by
  unfold worstOf
  congr 1
  funext best i
  unfold worstStep
  cases s[i].lastDev <;> cases best <;> rfl

/-- The point `i` with last deviation `d` is the worst: of each other point with a last deviation the
level is lower, or the magnitude smaller, or it comes later. -/
def IsWorst (s : Points PointStats) (i : Fin 12) (d : Int) : Prop :=
  ∀ (j : Fin 12) (e : Int), s[j].lastDev = some e →
    s[j].flags.level.code < s[i].flags.level.code ∨
      s[j].flags.level = s[i].flags.level ∧
        (e.natAbs < d.natAbs ∨ e.natAbs = d.natAbs ∧ i ≤ j)

theorem outranks_iff (s : Points PointStats) (best i : Fin 12) (bestDev dev : Int) :
    outranks s best bestDev i dev = true ↔
      s[best].flags.level.code < s[i].flags.level.code ∨
        s[best].flags.level.code = s[i].flags.level.code ∧ bestDev.natAbs < dev.natAbs := by
  simp [outranks]

/-- The worst point outranks each point before it. -/
theorem IsWorst.outranks_before {s : Points PointStats} {i j : Fin 12} {d e : Int}
    (h : IsWorst s i d) (he : s[j].lastDev = some e) (hj : j < i) : outranks s j e i d = true := by
  rw [outranks_iff]
  obtain hl | ⟨hl, hm | ⟨-, hij⟩⟩ := h j e he
  · exact .inl hl
  · exact .inr ⟨congrArg _ hl, hm⟩
  · exact absurd hij (not_le.2 hj)

/-- No point outranks the worst. -/
theorem IsWorst.not_outranked {s : Points PointStats} {i j : Fin 12} {d e : Int}
    (h : IsWorst s i d) (he : s[j].lastDev = some e) : outranks s i d j e = false := by
  rw [← Bool.not_eq_true, outranks_iff]
  obtain hl | ⟨hl, hm⟩ := h j e he
  · omega
  · have hcode := congrArg Level.code hl
    omega

/-- The worst point once found stays. -/
theorem IsWorst.foldl_stays {s : Points PointStats} {i : Fin 12} {d : Int} (h : IsWorst s i d)
    (l : List (Fin 12)) : l.foldl (worstStep s) (some (i, d)) = some (i, d) := by
  induction l with
  | nil => rfl
  | cons j l ih =>
    have hstep : worstStep s (some (i, d)) j = some (i, d) := by
      unfold worstStep
      cases he : s[j].lastDev with
      | none => rfl
      | some e => simp [h.not_outranked he]
    rw [List.foldl_cons, hstep, ih]

/-- A best so far that the worst point will outrank: none, or a point before it. -/
def Behind (s : Points PointStats) (i : Fin 12) (best : Option (Fin 12 × Int)) : Prop :=
  ∀ j e, best = some (j, e) → j < i ∧ s[j].lastDev = some e

theorem Behind.step {s : Points PointStats} {i j : Fin 12} {best : Option (Fin 12 × Int)}
    (h : Behind s i best) (hj : j < i) : Behind s i (worstStep s best j) := by
  unfold worstStep
  cases he : s[j].lastDev with
  | none => exact h
  | some e =>
    have hnew : Behind s i (some (j, e)) := by
      rintro _ _ ⟨⟩
      exact ⟨hj, he⟩
    cases best with
    | none => exact hnew
    | some b =>
      simp only [Option.elim_some]
      split
      · exact hnew
      · exact h

theorem IsWorst.step_takes {s : Points PointStats} {i : Fin 12} {d : Int} (h : IsWorst s i d)
    (hd : s[i].lastDev = some d) {best : Option (Fin 12 × Int)} (hb : Behind s i best) :
    worstStep s best i = some (i, d) := by
  unfold worstStep
  rw [hd]
  cases best with
  | none => rfl
  | some b =>
    obtain ⟨hj, he⟩ := hb b.1 b.2 rfl
    simp [h.outranks_before he hj]

/-- The search over points in order ends with the worst. -/
theorem IsWorst.foldl_finds {s : Points PointStats} {i : Fin 12} {d : Int} (h : IsWorst s i d)
    (hd : s[i].lastDev = some d) {l : List (Fin 12)} (hl : l.Pairwise (· < ·)) (hi : i ∈ l)
    {best : Option (Fin 12 × Int)} (hb : Behind s i best) :
    l.foldl (worstStep s) best = some (i, d) := by
  induction l generalizing best with
  | nil => simp at hi
  | cons j l ih =>
    rw [List.foldl_cons]
    obtain ⟨hfirst, hrest⟩ := List.pairwise_cons.1 hl
    obtain rfl | hi := List.mem_cons.1 hi
    · rw [h.step_takes hd hb, h.foldl_stays]
    · exact ih hrest hi (hb.step (hfirst i hi))

theorem worstOf_of_isWorst {s : Points PointStats} {i : Fin 12} {d : Int} (h : IsWorst s i d)
    (hd : s[i].lastDev = some d) : worstOf s = some (i, d) := by
  rw [worstOf_eq]
  exact h.foldl_finds hd (by decide) (mem_points i) nofun

theorem worstOf_of_absent {s : Points PointStats} (h : ∀ i : Fin 12, s[i].lastDev = none) :
    worstOf s = none := by
  rw [worstOf_eq]
  generalize points = l
  induction l with
  | nil => rfl
  | cons j l ih =>
    have hstep : worstStep s none j = none := by
      unfold worstStep
      rw [h j]
      rfl
    rw [List.foldl_cons, hstep, ih]

/-- What the verdict on a record reports. -/
theorem recordVerdict_reports (rd : Reading) (status : Status) (outcome : ReadingOutcome)
    (start r : LineRecord) (progress : Nat × Nat) :
    Reports (recordVerdict rd status outcome start r progress) rd status outcome start r
      progress where
  echoes := ⟨rfl, rfl, rfl, rfl, rfl⟩
  record := ⟨rfl, rfl, rfl, rfl, rfl, rfl, rfl⟩
  crossover := ⟨rfl, rfl⟩
  newAction := by simp [recordVerdict]
  newKinds := by
    intro kind hkind
    simp only [List.mem_cons, List.not_mem_nil, or_false] at hkind
    obtain rfl | rfl | rfl | rfl := hkind <;> exact gained_iff _ start.stats r.stats
  noWorst := by
    intro h
    show worstPoint r = none
    unfold worstPoint
    rw [worstOf_of_absent h]
    rfl
  worst := by
    intro i d hd h
    show worstPoint r = _
    unfold worstPoint
    rw [worstOf_of_isWorst h hd]
    rfl

/-! ## The verdict in the response block (R156, R161) -/

/-- Fields whose widths divide 8 stand alike from places 8 apart. -/
theorem placeFields_add_eight {fs : List Field} (h : ∀ f ∈ fs, f.width ∣ 8) (offset : Nat) :
    placeFields (offset + 8) fs = placeFields offset fs := by
  induction fs generalizing offset with
  | nil => rfl
  | cons f fs ih =>
    obtain ⟨hf, hfs⟩ := List.forall_mem_cons.1 h
    have hmod : (offset + 8) % f.width = offset % f.width := by
      rw [Nat.add_mod, Nat.mod_eq_zero_of_dvd hf, Nat.add_zero, Nat.mod_mod]
    unfold placeFields
    dsimp only
    rw [hmod, Nat.add_right_comm offset 8, Nat.add_right_comm _ 8, ih hfs]

/-- The 8 bytes of a response before its content. -/
def headerBytes (code : Byte) (tag : Half) (r : Reply) : List Byte :=
  placeFields 0 (headerFields code tag r)

theorem placeFields_headerFields_append (code : Byte) (tag : Half) (r : Reply) (fs : List Field) :
    placeFields 0 (headerFields code tag r ++ fs) = headerBytes code tag r ++ placeFields 8 fs := by
  simp [headerBytes, headerFields, placeFields, u8, u16]

theorem headerBytes_length (code : Byte) (tag : Half) (r : Reply) :
    (headerBytes code tag r).length = 8 := by
  simp [headerBytes, headerFields, placeFields, u8, u16]

theorem Verdict.bytes_length (v : Verdict) : v.bytes.length = 32 := v.showsVerdict.length

theorem Verdict.placeFields_eight (v : Verdict) : placeFields 8 v.fields = v.bytes := by
  have hwidths : ∀ f ∈ v.fields, f.width ∣ 8 := by
    simp [Verdict.fields, u8, u16, u32, s16]
  exact placeFields_add_eight hwidths 0

/-- A response whose content is a verdict holds its bytes at offsets 8 to 39. -/
theorem responseOf_verdict (code : Byte) (tag : Half) {r : Reply} {v : Verdict}
    (h : r.content = v.fields) :
    ((responseOf code tag r).toList.drop 8).take 32 = v.bytes := by
  have hblock : (responseOf code tag r).toList =
      (headerBytes code tag r ++ (v.bytes ++ List.replicate 256 0)).take 256 := by
    rw [← List.append_assoc, ← v.placeFields_eight, ← placeFields_headerFields_append, ← h]
    exact blockOf_toList 256 _
  rw [hblock, List.drop_take, List.drop_left' (headerBytes_length ..), List.take_take]
  exact List.take_left' v.bytes_length

/-! ## The verdict written by a batch (R172) -/

theorem endBatch_outbound (s : State) (cause : EndCause) :
    (s.endBatch cause).bus.outbound = s.bus.outbound := by
  cases hf : s.engine.front with
  | none => simp [State.endBatch, hf]
  | some f =>
    by_cases hn : cause = .complete → s.engine.armed = false
    · rw [endBatch_ended hf hn]
    · obtain ⟨rfl, ha⟩ : cause = .complete ∧ s.engine.armed = true := by simpa using hn
      rw [endBatch_promoted hf ha]

/-- A reading processed issues its verdict's write, and nothing besides. -/
theorem processReading_outbound {s : State} {f : Front} (hf : s.engine.front = some f)
    (hm : s.bus.busMaster = true) (v : Verdict) :
    (s.processReading v).bus.outbound = s.bus.outbound ++ writeItems f.result v.bytes := by
  have hpost : (s.postWrite f.result v.bytes).bus.outbound =
      s.bus.outbound ++ writeItems f.result v.bytes := by
    rw [postWrite_eq, hm]
    rfl
  cases hc : endCauseOf f.advance s.engine.abortPending v with
  | none => rw [processReading_goesOn hf hc, hpost]
  | some cause =>
    rw [processReading_ended hf hc, endBatch_outbound]
    exact hpost

/-- What goes out at the end of an event follows what was issued in it. -/
theorem settle_outbound_append (before after : State) :
    ∃ messages, (settle before after).bus.outbound = after.bus.outbound ++ messages := by
  rw [settle_bus_outbound]
  split
  · exact ⟨_, rfl⟩
  · exact ⟨[], (List.append_nil _).symm⟩

/-- A batch reading under way, completed: the reading carried out and its verdict processed. -/
theorem completeReading_batch {b : State} {raw : RawReading}
    (hp : b.unit.inProgress = some (.reading raw false)) :
    completeReading b =
      ({ b with unit := { (carryReading b.unit raw).unit with inProgress := none } }.latchAttention
        (carryReading b.unit raw).attention).processReading (carryReading b.unit raw).verdict := by
  unfold completeReading
  rw [hp]
  rfl

/-- BATCH_READING_COMPLETE on the reading that FRONT put to the Record Unit. -/
theorem exec_batchReadingComplete {u : RecordUnit} {b : State} {raw : RawReading} {f : Front}
    (hc : b.inColdReset = false) (hm : b.bus.busMaster = true)
    (hb : b.unit = u.start (.reading raw false) b.unit.arbiter) (hf : b.engine.front = some f) :
    let g := carryReading u raw
    ∃ t, exec .batchReadingComplete b = .next t ∧
      t.unit = { g.unit with arbiter := b.unit.arbiter, inProgress := none } ∧
      ∃ messages, t.bus.outbound =
        b.bus.outbound ++ writeItems f.result g.verdict.bytes ++ messages := by
  intro g
  have hg : carryReading b.unit raw =
      { g with unit := g.unit.start (.reading raw false) b.unit.arbiter } :=
    (congrArg (carryReading · raw) hb).trans (carryReading_start ..)
  have hdone := completeReading_batch (b := b) (raw := raw) (by rw [hb]; rfl)
  rw [hg] at hdone
  refine ⟨settle b (completeReading b), event_live hc, ?_, ?_⟩
  · rw [settle_unit, hdone, (onlyBatch_processReading _ _).unit, State.latchAttention_unit]
    rfl
  · obtain ⟨messages, hout⟩ := settle_outbound_append b (completeReading b)
    refine ⟨messages, hout.trans ?_⟩
    rw [hdone, processReading_outbound (f := f)]
    · rw [State.latchAttention_bus_outbound]
    · rw [State.latchAttention_engine]
      exact hf
    · rw [State.latchAttention_bus_busMaster]
      exact hm

/-- Settles O35: both routes carry the reading out by `carryReading`, which the grant and the arbiter
do not move. -/
theorem bothRoutesGiveOneVerdict : Obligations.BothRoutesGiveOneVerdict := by
  refine ⟨Verdict.showsVerdict, recordVerdict_reports, ?_⟩
  intro s b h raw f hfirst hk hcold hm hb hf g
  refine ⟨g.verdict.bytes_length, ?_, exec_batchReadingComplete hcold hm hb hf⟩
  obtain ⟨t, hcarried, hserved⟩ := served_reading h hfirst hk rfl
  refine ⟨t, hcarried, ?_, hserved.unit⟩
  rw [hserved.port]
  exact responseOf_verdict _ _ rfl

end Sys2Proof.Machine
end

section
/-! One plot point and one mean: which points of a record are graded, what a plot value is, how the sums,
the run and the flags of a point move, and how a mean is rounded. -/

namespace Sys2Proof.Machine

open Sys2Proof

/-! ## Plot points by quantity and channel (R2, R69, R190) -/

theorem quantityOf_of_position {i : Fin 12} {quantity : Fin 4} {channel : Fin 3}
    (hi : i.val = 3 * quantity.val + channel.val) : quantityOf i = quantity := by
  apply Fin.ext
  simp only [quantityOf]
  omega

theorem channelOf_of_position {i : Fin 12} {quantity : Fin 4} {channel : Fin 3}
    (hi : i.val = 3 * quantity.val + channel.val) : channelOf i = channel := by
  apply Fin.ext
  simp only [channelOf]
  omega

/-- The spare positions are those of a MONO record beside the green ones. -/
theorem isPoint_iff_channelOf {kind : ProcessKind} {i : Fin 12} :
    isPoint kind i = true ↔ ¬(kind = .mono ∧ channelOf i ≠ 1) := by
  cases kind <;> simp [isPoint]

/-- A grading by quantity and channel (R71). -/
theorem gradeStats_position (pr : Profile) (kind : ProcessKind) (aims corrected : Points Int)
    (stats : Points PointStats) {quantity : Fin 4} {channel : Fin 3} {i : Fin 12}
    (hi : i.val = 3 * quantity.val + channel.val) :
    (gradeStats pr kind aims corrected stats)[i] =
      if kind = .mono ∧ channel ≠ 1 then stats[i]
      else gradePoint pr.limits[quantity] pr.runLimit aims[i] corrected[i] stats[i] := by
  simp only [gradeStats_getElem, quantityOf_of_position hi, isPoint_iff_channelOf,
    channelOf_of_position hi]
  exact ite_not _ _ _

/-- A plot value by quantity and channel (R69). -/
theorem plotValue_position (rd : Reading) {quantity : Fin 4} {channel : Fin 3} {i : Fin 12}
    (hi : i.val = 3 * quantity.val + channel.val) :
    plotValue rd i =
      match (generalizing := false) quantity with
      | 0 => (rd.densities[channel.val].toNat : Int)
      | 1 => (rd.densities[3 + channel.val].toNat : Int)
      | 2 => (rd.densities[6 + channel.val].toNat : Int) - (rd.densities[3 + channel.val].toNat : Int)
      | 3 => (rd.densities[9 + channel.val].toNat : Int) := by
  have hc : i.val % 3 = channel.val := by omega
  unfold plotValue
  simp only [quantityOf_of_position hi, hc]
  match quantity with
  | 0 => rfl
  | 1 => rfl
  | 2 => rfl
  | 3 => rfl

/-! ## One point graded (R72 to R79) -/

theorem boundCusum_eq (v : Int) : (boundCusum v : Int) = max 0 (min 32767 v) := by
  unfold boundCusum
  show ((min v.toNat 32767 : Nat) : Int) = _
  omega

/-- A deviation above the aim lengthens a run above it, and begins one otherwise (R75). -/
theorem nextRun_above {d run : Int} (hd : 0 < d) :
    nextRun d run = if 0 < run then min 15 (run + 1) else 1 := by
  unfold nextRun
  rw [if_pos hd]
  split
  · split <;> omega
  · rfl

/-- A deviation below the aim lengthens a run below it, and begins one otherwise (R75). -/
theorem nextRun_below {d run : Int} (hd : d < 0) :
    nextRun d run = if run < 0 then max (-15) (run - 1) else -1 := by
  unfold nextRun
  rw [if_neg (by omega), if_pos hd]
  split
  · split <;> omega
  · rfl

@[simp] theorem nextRun_zero (run : Int) : nextRun 0 run = 0 := rfl

theorem isShift_iff {l : Limits} {d : Int} : isShift l d = true ↔ l.a < d.natAbs :=
  decide_eq_true_iff

theorem isExcursion_eq (l : Limits) (d : Int) :
    isExcursion l d = decide (l.w < d.natAbs ∧ d.natAbs ≤ l.a) :=
  (Bool.decide_and _ _).symm

theorem isExcursion_iff {l : Limits} {d : Int} :
    isExcursion l d = true ↔ l.w < d.natAbs ∧ d.natAbs ≤ l.a := by
  rw [isExcursion_eq, decide_eq_true_iff]

theorem isTrend_iff {runLimit : Nat} {run : Int} :
    isTrend runLimit run = true ↔ runLimit ≤ run.natAbs :=
  decide_eq_true_iff

/-- SHIFT and DRIFT alone give the highest level (R79). -/
theorem level_eq_action_iff {f : Flags} : f.level = .action ↔ f.shift = true ∨ f.drift = true := by
  rw [← Bool.or_eq_true]
  unfold Flags.level
  split
  · simp_all
  · split <;> simp_all

/-- No flag gives no level (R79). -/
theorem level_eq_ok_iff {f : Flags} : f.level = .ok ↔ f = ⟨false, false, false, false⟩ := by
  obtain ⟨shift, excursion, trend, drift⟩ := f
  simp only [Flags.level, Flags.mk.injEq]
  cases shift
  · cases drift
    · cases excursion <;> simp
    · simp
  · simp

/-- Settles O33: the position decides limits, values and spare entries; each field of a graded point
has its own rule. -/
theorem pointGradingFollowsTheRules : Obligations.PointGradingFollowsTheRules := by
  refine ⟨fun pr kind aims corrected stats _ _ _ hi => gradeStats_position _ _ _ _ _ hi,
    fun stats => ⟨level_le_statsLevel stats, exists_level_eq_statsLevel stats⟩,
    fun rd _ _ _ hi => plotValue_position rd hi, ?_⟩
  intro l runLimit aim corrected p d q
  have hrun : q.run = nextRun d p.run := rfl
  have hdrift : q.flags.drift = true ↔
      p.flags.drift = true ∨ l.h < q.cusumHigh ∨ l.h < q.cusumLow := by
    simp [q, gradePoint, or_assoc]
  exact ⟨rfl, boundCusum_eq _, boundCusum_eq _,
    fun hd hr => hrun.trans ((nextRun_above hd).trans (if_pos hr)),
    fun hd hr => hrun.trans ((nextRun_above hd).trans (if_neg (not_lt.2 hr))),
    fun hd hr => hrun.trans ((nextRun_below hd).trans (if_pos hr)),
    fun hd hr => hrun.trans ((nextRun_below hd).trans (if_neg (not_lt.2 hr))),
    fun hd => by rw [hrun, hd, nextRun_zero],
    isShift_iff, isExcursion_iff, isTrend_iff, hdrift, level_eq_action_iff, level_eq_ok_iff⟩

/-! ## Means (R83) -/

/-- The magnitude of a mean: the quotient of the magnitudes, one more from half a count on. -/
def meanMagnitude (magnitude count : Nat) : Nat :=
  if count ≤ 2 * (magnitude % count) then magnitude / count + 1 else magnitude / count

theorem roundMean_eq (sum : Int) (count : Nat) :
    roundMean sum count =
      if 0 ≤ sum then (meanMagnitude sum.natAbs count : Int)
      else -(meanMagnitude sum.natAbs count : Int) := by
  by_cases hs : 0 ≤ sum
  · rw [if_pos hs]
    exact if_neg (not_lt.2 hs)
  · rw [if_neg hs]
    exact if_pos (not_le.1 hs)

theorem meanMagnitude_zero {count : Nat} (hc : 0 < count) : meanMagnitude 0 count = 0 := by
  unfold meanMagnitude
  rw [Nat.zero_mod, Nat.zero_div, if_neg (by omega)]

/-- The magnitude of a mean is off by at most half the count. -/
theorem meanMagnitude_error (magnitude : Nat) {count : Nat} (hc : 0 < count) :
    2 * ((magnitude : Int) - count * meanMagnitude magnitude count).natAbs ≤ count := by
  have hdiv : (magnitude : Int) =
      count * (magnitude / count : Nat) + (magnitude % count : Nat) := by
    exact_mod_cast (Nat.div_add_mod magnitude count).symm
  have hmod : magnitude % count < count := Nat.mod_lt _ hc
  unfold meanMagnitude
  split
  · have herror : (magnitude : Int) - count * (magnitude / count + 1 : Nat) =
        (magnitude % count : Nat) - count := by
      push_cast at hdiv ⊢
      linarith
    omega
  · omega

theorem roundMean_neg (sum : Int) {count : Nat} (hc : 0 < count) :
    roundMean (-sum) count = -roundMean sum count := by
  rw [roundMean_eq, roundMean_eq, Int.natAbs_neg]
  obtain hs | rfl | hs := lt_trichotomy sum 0
  · rw [if_pos (by omega), if_neg (by omega), neg_neg]
  · rw [Int.natAbs_zero, meanMagnitude_zero hc]
    rfl
  · rw [if_neg (by omega), if_pos (by omega)]

/-- A mean is off by at most half the count, on either side of 0. -/
theorem roundMean_error (sum : Int) {count : Nat} (hc : 0 < count) :
    2 * (sum - count * roundMean sum count).natAbs ≤ count := by
  have hm := meanMagnitude_error sum.natAbs hc
  rw [roundMean_eq]
  split
  · rename_i hs
    rwa [Int.natAbs_of_nonneg hs] at hm
  · rename_i hs
    have hsum : sum - count * -(meanMagnitude sum.natAbs count : Int) =
        -((sum.natAbs : Int) - count * meanMagnitude sum.natAbs count) := by
      rw [Int.ofNat_natAbs_of_nonpos (by omega)]
      ring
    rwa [hsum, Int.natAbs_neg]

/-- A crossover matches where every plot point's mean difference is within its tolerance (R123). -/
theorem crossoverMatches_iff {pr : Profile} {kind : ProcessKind} {sums : Points Int}
    {required : Nat} :
    crossoverMatches pr kind sums required = true ↔
      ∀ i : Fin 12, isPoint kind i = true →
        (roundMean sums[i] required).natAbs ≤ pr.limits[quantityOf i].tolerance := by
  simp only [crossoverMatches, all_points_iff, Bool.or_eq_true, Bool.not_eq_true',
    or_iff_not_imp_left, Bool.not_eq_false, decide_eq_true_eq]
  rfl

/-- Settles O34: quotient and remainder of the magnitudes, then the sum's sign. -/
theorem meanIsRoundedHalvesAwayFromZero : Obligations.MeanIsRoundedHalvesAwayFromZero :=
  ⟨fun sum _ hc => ⟨roundMean_eq sum _, roundMean_error sum hc, roundMean_neg sum hc⟩,
    fun _ _ i => ⟨rfl, build12_getElem _ i⟩, fun _ _ _ _ => crossoverMatches_iff⟩

end Sys2Proof.Machine
end

section
/-! A change request on a named record whose checks come before its change: what refuses it, and what
the part holds once it was served. -/

namespace Sys2Proof.Machine

open Sys2Proof

/-! ## The record found (R17, R18) -/

theorem keyOutOfRange_eq_false {site : Word} {line : Byte} (hk : KeyInRange site line) :
    keyOutOfRange site line = false := by
  obtain ⟨hlow, hhigh, hline⟩ := hk
  simp only [keyOutOfRange, Bool.or_eq_false_iff, decide_eq_false_iff_not]
  omega

theorem versionDiffers_eq_false {h : Header} {r : LineRecord} (hv : VersionAgrees h r) :
    versionDiffers h r = false := by
  cases hp : versionPresent h with
  | false => simp [versionDiffers, hp]
  | true => simp [versionDiffers, hp, hv hp]

/-- A change request whose checks give `check`, the first that fails, and whose change is `change`. -/
def checkedBody (check : Touch → Option Status) (change : Touch → Touch) (t : Touch) : Ending :=
  (check t).elim (.accepted (change t)) .refused

section Found

variable {u : RecordUnit} {h : Header} {site : Word} {line : Byte} {r : LineRecord}
  {missing : List Field} {report : Touch → List Field} {check : Touch → Option Status}
  {change : Touch → Touch}

/-- A failed check leaves the record as catch-up left it. -/
theorem onLine_checked_refused {status : Status} (hk : KeyInRange site line)
    (hl : u.lookup site.toNat line.toNat = some r) (hv : VersionAgrees h (touch u r).line)
    (hs : check (touch u r) = some status) :
    onLine u h site line false true missing report (checkedBody check change) =
      ⟨(touch u r).commit, (touch u r).attention,
        ⟨status, r.slot, (touch u r).line.version, report (touch u r)⟩⟩ := by
  simp only [onLine, keyOutOfRange_eq_false hk, hl, versionDiffers_eq_false hv, checkedBody, hs,
    touch_slot]
  rfl

/-- With no check failed the change is made to the record as catch-up left it. -/
theorem onLine_checked_accepted (hk : KeyInRange site line)
    (hl : u.lookup site.toNat line.toNat = some r) (hv : VersionAgrees h (touch u r).line)
    (hs : check (touch u r) = none) :
    onLine u h site line false true missing report (checkedBody check change) =
      ⟨(change (touch u r)).commit, (change (touch u r)).attention,
        ⟨.accepted, (change (touch u r)).line.slot, (change (touch u r)).line.version,
          report (change (touch u r))⟩⟩ := by
  simp only [onLine, keyOutOfRange_eq_false hk, hl, versionDiffers_eq_false hv, checkedBody, hs]
  rfl

end Found

/-! ## Served beside the grant (R15, R152) -/

/-- A request of the Record Unit that is a checked change of a named record: the part presents it
whatever the gate, and neither its content, its checks nor its change reads the request under way. -/
structure CheckedChange (h : Header) (op : UnitOp) (site : Word) (line : Byte)
    (report : Touch → List Field) (check : Touch → Option Status) (change : Touch → Touch) :
    Prop where
  carried : ∀ u,
    carryOut u ⟨h, op⟩ = onLine u h site line false true [] report (checkedBody check change)
  presented : ∀ gate, portRefuses gate op = none
  report_restart : ∀ g k t, report (t.restart g k) = report t
  check_restart : ∀ g k t, check (t.restart g k) = check t
  change_restart : ∀ g k t, change (t.restart g k) = (change t).restart g k

section Served

variable {s : State} {h : Header} {op : UnitOp} {site : Word} {line : Byte} {r : LineRecord}
  {report : Touch → List Field} {check : Touch → Option Status} {change : Touch → Touch}

theorem CheckedChange.served_refused (c : CheckedChange h op site line report check change)
    {status : Status} (hf : s.portFirst) (hk : KeyInRange site line)
    (hl : s.unit.lookup site.toNat line.toNat = some r)
    (hv : VersionAgrees h (touch s.unit r).line) (hs : check (touch s.unit r) = some status) :
    ∃ t, CarriesOut (rowOf h op) s t ∧
      Served s t h op (s.served (touch s.unit r).commit) (touch s.unit r).attention
        ⟨status, r.slot, (touch s.unit r).line.version, report (touch s.unit r)⟩ := by
  have hserved := served_of_portFirst (h := h) hf (c.presented _)
  dsimp only at hserved
  rw [c.carried, onLine_checked_refused hk ((lookup_start ..).trans hl)
    (by rw [touch_start]; exact hv) (by rw [touch_start, c.check_restart]; exact hs), touch_start,
    c.report_restart] at hserved
  exact hserved

theorem CheckedChange.served_accepted (c : CheckedChange h op site line report check change)
    {y : LineRecord} (hf : s.portFirst) (hk : KeyInRange site line)
    (hl : s.unit.lookup site.toNat line.toNat = some r)
    (hv : VersionAgrees h (touch s.unit r).line) (hs : check (touch s.unit r) = none)
    (hy : change (touch s.unit r) = (touch s.unit r).becomes y)
    (hslot : y.slot = (touch s.unit r).line.slot) :
    let w := touch s.unit r
    ∃ t, CarriesOut (rowOf h op) s t ∧
      Served s t h op
        (s.served ((countFollows w.unit w.line.region w.line.attention y.attention).putRecord y))
        (w.attention || countPasses w.unit w.line.region w.line.attention y.attention)
        ⟨.accepted, r.slot, y.version, report (w.becomes y)⟩ := by
  have hserved := served_of_portFirst (h := h) hf (c.presented _)
  dsimp only at hserved
  rw [c.carried, onLine_checked_accepted hk ((lookup_start ..).trans hl)
    (by rw [touch_start]; exact hv) (by rw [touch_start, c.check_restart]; exact hs), touch_start,
    c.change_restart, c.report_restart, hy] at hserved
  rw [← touch_slot s.unit r, ← hslot]
  exact hserved

end Served

/-! ## A change of the record, the version and the attention bit (R9, R81) -/

/-- The record changed, its version one more and its attention bit recomputed. -/
theorem bumpVersion_recomputeAttention_eq {w : Touch} {f : LineRecord → LineRecord}
    (hr : (f w.line).region = w.line.region) (ha : (f w.line).attention = w.line.attention) :
    (w.mapLine f).bumpVersion.recomputeAttention =
      w.becomes { f w.line with
        version := (f w.line).version + 1
        attention := (f w.line).wantsAttention } := by
  rw [recomputeAttention_eq]
  refine becomes_congr (w := w) ?_ ?_ ?_ ?_ _
  · rfl
  · rfl
  · exact hr
  · exact ha

theorem restart_bumpVersion_recomputeAttention (g : Option Grant) (k : Arbiter) (t : Touch)
    (f : LineRecord → LineRecord) :
    ((t.restart g k).mapLine f).bumpVersion.recomputeAttention =
      ((t.mapLine f).bumpVersion.recomputeAttention).restart g k :=
  restart_recomputeAttention g k (t.mapLine f).bumpVersion

end Sys2Proof.Machine
end

section
/-! SET_AIMS and CLEAR_DRIFT: which check refuses them, and the record they leave. -/

namespace Sys2Proof.Machine

open Sys2Proof

/-! ## SET_AIMS (R85 to R87) -/

theorem aimsOutOfRange_eq_false {a : AimsArgs} (ho : OwnFieldsInRange (.setAims a)) :
    aimsOutOfRange a.aims = false := by
  simp only [aimsOutOfRange, List.any_eq_false, Bool.or_eq_true, decide_eq_true_eq, not_or, not_lt]
  exact fun i _ => ho i

theorem strayEntries_eq (kind : ProcessKind) (aims : Vector Half 12) :
    strayEntries kind aims = !points.all fun i => isPoint kind i || aims[i] == 0 := by
  simp only [strayEntries, List.not_all_eq_any_not, Bool.not_or, bne]

/-- The checks of SET_AIMS go by the table of R86. -/
theorem aimsChecks_eq (r : LineRecord) (aims : Vector Half 12) (ending : Ending) :
    (if strayEntries r.kind aims then .refused .badParameter
      else if r.state = .lapsed ∨ r.state = .reinstating then .refused .badState
      else if r.state = .new ∧ r.lot = none then .refused .badState
      else ending) =
      (firstFailure (aimsTable r aims)).elim ending .refused := by
  unfold aimsTable
  rw [strayEntries_eq, firstFailure_cons]
  cases points.all fun i => isPoint r.kind i || aims[i] == 0
  case false => rfl
  rw [if_neg (by decide), if_pos rfl, firstFailure_cons]
  by_cases hstate : r.state = .lapsed ∨ r.state = .reinstating
  case pos =>
    rw [if_pos hstate, decide_eq_false (not_and_or.2 (hstate.imp not_not.2 not_not.2))]
    rfl
  rw [if_neg hstate, decide_eq_true (not_or.1 hstate), if_pos rfl, firstFailure_cons]
  by_cases hlot : r.state = .new ∧ r.lot = none
  case pos =>
    rw [if_pos hlot, if_neg (by simp [hlot])]
    rfl
  have hpasses : (decide (r.state ≠ .new) || r.lot.isSome) = true := by
    simpa [Option.isSome_iff_ne_none, imp_iff_not_or] using hlot
  rw [if_neg hlot, if_pos hpasses]
  rfl

/-- A record that passes the table of R86 is NEW, BASELINE or ACTIVE. -/
theorem state_of_aimsTable {r : LineRecord} {aims : Vector Half 12}
    (h : firstFailure (aimsTable r aims) = none) : r.state ≠ .lapsed ∧ r.state ≠ .reinstating := by
  by_contra hstate
  unfold aimsTable at h
  rw [firstFailure_cons, firstFailure_cons, decide_eq_false hstate] at h
  split at h <;> cases h

/-- The aims loaded into a record that passes the table: a NEW or BASELINE one becomes ACTIVE with
the whole interval, an ACTIVE one keeps its count (R87). -/
theorem loadAims_eq {r : LineRecord} (hs : r.state ≠ .lapsed ∧ r.state ≠ .reinstating)
    (interval : Nat) (aims : Points Int) :
    r.loadAims interval aims =
      { r with
        aims := some aims
        stats := startStats
        level := .ok
        ackLevel := .ok
        baseline := none
        snapshot := none
        state := .active
        countdown := if r.state = .active then r.countdown else interval
        missed := if r.state = .active then r.missed else 0 } := by
  unfold LineRecord.loadAims
  rw [resetStats_eq]
  cases hstate : r.state with
  | new => rfl
  | baseline => rfl
  | active => rfl
  | lapsed => exact absurd hstate hs.1
  | reinstating => exact absurd hstate hs.2

theorem setAims_checked (h : Header) {a : AimsArgs} (ho : OwnFieldsInRange (.setAims a)) :
    CheckedChange h (.setAims a) a.site a.line levelReport
      (fun t => firstFailure (aimsTable t.line a.aims))
      fun t => (t.mapLine
        (·.loadAims t.profile.stripInterval (aimsOf a.aims))).bumpVersion.recomputeAttention where
  carried u := by
    show carrySetAims u h a = _
    unfold carrySetAims
    simp only [aimsOutOfRange_eq_false ho, aimsChecks_eq]
    rfl
  presented _ := portRefuses_ungated rfl nofun
  report_restart _ _ _ := rfl
  check_restart _ _ _ := rfl
  change_restart _ _ _ := restart_bumpVersion_recomputeAttention ..

/-- Settles O22: the table of R86 decides, and the loaded record stands but for version and
attention. -/
theorem setAimsLoadsTheAims : Obligations.SetAimsLoadsTheAims := by
  intro s h a r hf hk ho hl hv w x
  have hc := setAims_checked h ho
  refine ⟨fun status hs => hc.served_refused hf hk hl hv hs, ?_⟩
  intro hs attention y
  have hy : (w.mapLine
      (·.loadAims w.profile.stripInterval (aimsOf a.aims))).bumpVersion.recomputeAttention =
      w.becomes y := by
    rw [bumpVersion_recomputeAttention_eq rfl rfl, loadAims_eq (state_of_aimsTable hs)]
    rfl
  exact hc.served_accepted (y := y) hf hk hl hv hs hy rfl

/-! ## CLEAR_DRIFT (R89, R90) -/

/-- SHIFT and EXCURSION of a cleared point, from the last deviation where there is one (R90). -/
theorem clearPoint_eq (l : Limits) (p : PointStats) :
    clearPoint l p =
      { lastDev := p.lastDev, cusumHigh := 0, cusumLow := 0, run := 0
        flags :=
          { shift := p.lastDev.any fun d => decide (l.a < d.natAbs)
            excursion := p.lastDev.any fun d => decide (l.w < d.natAbs ∧ d.natAbs ≤ l.a)
            trend := false
            drift := false } } := by
  unfold clearPoint
  cases p.lastDev with
  | none => rfl
  | some d => simp only [Option.elim_some, Option.any_some, isShift, isExcursion_eq]

theorem clearDrift_checked (h : Header) (a : KeyArgs) :
    CheckedChange h (.clearDrift a) a.site a.line levelReport
      (fun t => if t.line.state ≠ .active then some .badState else none)
      fun t => (t.mapLine (·.clearDrift t.profile)).bumpVersion.recomputeAttention where
  carried u := by
    show carryClearDrift u h a = _
    unfold carryClearDrift
    congr 1
    funext t
    simp only [checkedBody]
    split <;> rfl
  presented _ := portRefuses_ungated rfl nofun
  report_restart _ _ _ := rfl
  check_restart _ _ _ := rfl
  change_restart _ _ _ := restart_bumpVersion_recomputeAttention ..

/-- Settles O26: the cleared points give the level, and the level the acknowledged level and the
attention bit. -/
theorem clearDriftZeroesTheSums : Obligations.ClearDriftZeroesTheSums := by
  intro s h a r hf hk hl hv w x
  have hc := clearDrift_checked h a
  refine ⟨fun hs => hc.served_refused hf hk hl hv (if_pos hs), ?_⟩
  intro hs stats level ack attention
  have hstats : mapStats x.kind (fun i p => clearPoint (limitsOf w.profile i) p) x.stats = stats := by
    simp only [mapStats, clearPoint_eq]
    rfl
  have hy : (w.mapLine (·.clearDrift w.profile)).bumpVersion.recomputeAttention =
      w.becomes { x with
        stats := stats
        level := level
        ackLevel := ack
        snapshot := none
        attention := attention
        version := x.version + 1 } := by
    rw [bumpVersion_recomputeAttention_eq rfl rfl]
    unfold LineRecord.clearDrift
    rw [hstats]
    rfl
  have hserved := hc.served_accepted hf hk hl hv (if_neg (not_not.2 hs)) hy rfl
  have hcode : x.state.code = 2 := congrArg SurvState.code hs
  simp only [levelReport, Touch.becomes, hcode] at hserved
  exact hserved

end Sys2Proof.Machine
end

section
/-! REINSTATE: which check refuses it, and the record it leaves. -/

namespace Sys2Proof.Machine

open Sys2Proof

/-! ## A change that leaves the attention bit (R9, R134) -/

theorem countFollows_self (u : RecordUnit) (region : Fin 64) (bit : Bool) :
    countFollows u region bit bit = u := by
  cases bit <;> rfl

theorem countPasses_self (u : RecordUnit) (region : Fin 64) (bit : Bool) :
    countPasses u region bit bit = false := by
  simp [countPasses]

/-- The record changed but for its attention bit, and its version one more. -/
theorem bumpVersion_eq_becomes {w : Touch} {f : LineRecord → LineRecord}
    (ha : (f w.line).attention = w.line.attention) :
    (w.mapLine f).bumpVersion =
      w.becomes { f w.line with version := (f w.line).version + 1 } :=
  (becomes_of_attention_eq w (y := { f w.line with version := (f w.line).version + 1 }) ha).symm

section Served

variable {s : State} {h : Header} {op : UnitOp} {site : Word} {line : Byte} {r : LineRecord}
  {report : Touch → List Field} {check : Touch → Option Status} {change : Touch → Touch}

/-- A change that leaves the attention bit leaves the region's count and the latch with it. -/
theorem CheckedChange.served_attention_kept
    (c : CheckedChange h op site line report check change)
    {y : LineRecord} (hf : s.portFirst) (hk : KeyInRange site line)
    (hl : s.unit.lookup site.toNat line.toNat = some r)
    (hv : VersionAgrees h (touch s.unit r).line) (hs : check (touch s.unit r) = none)
    (hy : change (touch s.unit r) = (touch s.unit r).becomes y)
    (hslot : y.slot = (touch s.unit r).line.slot)
    (ha : y.attention = (touch s.unit r).line.attention) :
    let w := touch s.unit r
    ∃ t, CarriesOut (rowOf h op) s t ∧
      Served s t h op (s.served (w.unit.putRecord y)) w.attention
        ⟨.accepted, r.slot, y.version, report ⟨y, w.unit, w.attention⟩⟩ := by
  have hserved := c.served_accepted hf hk hl hv hs hy hslot
  dsimp only at hserved
  rw [becomes_of_attention_eq _ ha, ha] at hserved
  simpa only [countFollows_self, countPasses_self, Bool.or_false] using hserved

end Served

/-! ## REINSTATE (R107, R108) -/

theorem reinstate_checked (h : Header) (a : KeyArgs) :
    CheckedChange h (.reinstate a) a.site a.line
      (fun t => levelReport t ++ [u8 t.line.countdown, u8 t.line.missed])
      (fun t => if t.line.state ≠ .lapsed then some .badState else none)
      fun t => (t.mapLine fun r =>
        { r with
          state := .reinstating
          countdown := t.profile.stripInterval
          missed := 0 }).bumpVersion where
  carried u := by
    show carryReinstate u h a = _
    unfold carryReinstate
    congr 1
    funext t
    simp only [checkedBody]
    split <;> rfl
  presented _ := portRefuses_ungated rfl nofun
  report_restart _ _ _ := rfl
  check_restart _ _ _ := rfl
  change_restart _ _ _ := rfl

/-- Settles O27: the one check is that of the state, and the reinstated record keeps its attention
bit. -/
theorem reinstateLoadsTheInterval : Obligations.ReinstateLoadsTheInterval := by
  intro s h a r hf hk hl hv w x interval
  have hc := reinstate_checked h a
  exact ⟨fun hs => hc.served_refused hf hk hl hv (if_pos hs), fun hs =>
    hc.served_attention_kept hf hk hl hv (if_neg (not_not.2 hs)) (bumpVersion_eq_becomes rfl)
      rfl rfl⟩

end Sys2Proof.Machine
end

section
/-! One day step under each closing mode, and catch-up as one day step for each day behind. -/

namespace Sys2Proof.Machine

open Sys2Proof

/-! ## Catch-up (R99) -/

theorem repeat_dayStep_comm (n : Nat) (t : Touch) :
    Nat.repeat Touch.dayStep n t.dayStep = (Nat.repeat Touch.dayStep n t).dayStep := by
  induction n with
  | zero => rfl
  | succ n ih => exact congrArg Touch.dayStep ih

theorem daySteps_eq_repeat (n : Nat) (t : Touch) :
    Touch.daySteps n t = Nat.repeat Touch.dayStep n t := by
  induction n generalizing t with
  | zero => rfl
  | succ n ih => exact (ih t.dayStep).trans (repeat_dayStep_comm n t)

/-! ## Entry into LAPSED (R105) -/

/-- The Record Unit after a record's crossover, where it has one, was cancelled: the incoming lot
has one user fewer (R105). -/
def cancelIncoming (u : RecordUnit) : Option Crossover → RecordUnit
  | none => u
  | some x => dropIncomingUser u x.incoming

/-- The record that a lapse leaves: LAPSE wants attention (R81, R105). -/
theorem lapse_eq (t : Touch) :
    t.lapse =
      ⟨{ t.line with
          state := .lapsed, countdown := 0, lapseEvent := true, crossover := none
          snapshot := none, version := t.line.version + 1, attention := true },
        countFollows (cancelIncoming t.unit t.line.crossover) t.line.region t.line.attention true,
        t.attention || countPasses t.unit t.line.region t.line.attention true⟩ := by
  have hwants : ∀ r : LineRecord, r.lapseEvent = true → r.wantsAttention = true := fun r hr => by
    simp [LineRecord.wantsAttention, hr]
  unfold Touch.lapse
  rw [recomputeAttention_eq, hwants _ rfl]
  cases t.line.crossover <;> rfl

/-- The held reading of a crossover plays no part in its cancelling. -/
theorem cancelIncoming_dropDayParts (u : RecordUnit) (r : LineRecord) :
    cancelIncoming u r.dropDayParts.crossover = cancelIncoming u r.crossover := by
  unfold cancelIncoming LineRecord.dropDayParts
  cases r.crossover <;> rfl

/-! ## The work of one day (R102, R103) -/

theorem clampCountdown_eq_min (interval countdown : Nat) :
    clampCountdown interval countdown = min countdown interval := by
  unfold clampCountdown
  split <;> omega

/-- The countdown as a day step takes it: brought down to the strip interval (R31). -/
def Touch.clamped (t : Touch) : Nat := min t.line.countdown t.profile.stripInterval

/-- A missed reading: counted, and the countdown reloaded (R102). -/
def Touch.missReading (t : Touch) : Touch :=
  t.mapLine fun r => { r with missed := r.missed + 1, countdown := t.profile.stripInterval }

theorem stepHoldAtDue_eq (t : Touch) :
    t.stepHoldAtDue = t.mapLine fun r =>
      { r with countdown := if 1 < t.clamped then t.clamped - 1 else t.clamped } := by
  unfold Touch.stepHoldAtDue
  rw [clampCountdown_eq_min]
  rfl

theorem stepRun_of_one_lt {t : Touch} (hd : 1 < t.clamped) :
    t.stepRun = t.mapLine fun r => { r with countdown := t.clamped - 1 } := by
  unfold Touch.stepRun
  dsimp only
  rw [clampCountdown_eq_min]
  exact if_neg (Nat.sub_ne_zero_of_lt hd)

/-- Under RUN a countdown at 1 or below ends in a missed reading, which lapses the record at the
lapse limit (R102). -/
theorem stepRun_of_le_one {t : Touch} (hd : t.clamped ≤ 1) :
    t.stepRun =
      if t.profile.lapseLimit ≤ t.line.missed + 1 then t.missReading.lapse else t.missReading := by
  unfold Touch.stepRun
  dsimp only
  rw [clampCountdown_eq_min]
  exact if_pos (Nat.sub_eq_zero_of_le hd)

/-! ## The day step under each closing mode (R101) -/

/-- The record with one day more closed. -/
def LineRecord.dayClosed (r : LineRecord) : LineRecord := { r with closedDay := r.closedDay + 1 }

/-- The work of a counting record's day under a closing mode. -/
def Touch.workDay (t : Touch) : HoldMode → Touch
  | .run => t.stepRun
  | .holdAtDue => t.stepHoldAtDue
  | .hold => t

theorem dayStep_of_counting {t : Touch} {mode : HoldMode} (hc : t.line.counting = true)
    (hm : t.region.closing = mode) :
    t.dayStep =
      ((t.mapLine LineRecord.dropDayParts).workDay mode).mapLine LineRecord.dayClosed := by
  have hregion : (t.mapLine LineRecord.dropDayParts).region = t.region := rfl
  unfold Touch.dayStep
  dsimp only
  rw [hregion, hm]
  exact congrArg (Touch.mapLine · LineRecord.dayClosed) ((if_pos hc).trans (by cases mode <;> rfl))

theorem dayStep_of_not_counting {t : Touch} (hc : ¬t.line.counting = true) :
    t.dayStep = (t.mapLine LineRecord.dropDayParts).mapLine LineRecord.dayClosed := by
  unfold Touch.dayStep
  exact congrArg (Touch.mapLine · LineRecord.dayClosed) (if_neg hc)

/-- Under HOLD counting makes no difference. -/
theorem dayStep_of_hold {t : Touch} (hm : t.region.closing = .hold) :
    t.dayStep = (t.mapLine LineRecord.dropDayParts).mapLine LineRecord.dayClosed := by
  by_cases hc : t.line.counting = true
  · exact dayStep_of_counting hc hm
  · exact dayStep_of_not_counting hc

/-- Settles O37: catch-up is the day step repeated, and each closing mode gives its clause, RUN one
for each outcome of its countdown and its missed count. -/
theorem dayStepFollowsTheClosingMode : Obligations.DayStepFollowsTheClosingMode := by
  refine ⟨fun u r => daySteps_eq_repeat _ _, ?_⟩
  intro t x pr mode counts down
  let dropped := t.mapLine LineRecord.dropDayParts
  have hcounting : t.line.counting = true ↔ counts := counting_iff t.line
  have closes {a b : Touch} (h : a = b) :
      a.mapLine LineRecord.dayClosed = b.mapLine LineRecord.dayClosed := by rw [h]
  have worked (hc : counts) (hm : mode = .run) :
      t.dayStep = dropped.stepRun.mapLine LineRecord.dayClosed :=
    dayStep_of_counting (hcounting.2 hc) hm
  refine ⟨fun h => ?standing, fun hc hm => ?holdAtDue, fun hc hm hd => ?countdown,
    fun hc hm hd hl => ?missed, fun hc hm hd hl => ?lapse⟩
  case standing =>
    exact h.elim (fun hn => dayStep_of_not_counting (hn ∘ hcounting.1)) dayStep_of_hold
  case holdAtDue =>
    exact (dayStep_of_counting (hcounting.2 hc) hm).trans (closes (stepHoldAtDue_eq dropped))
  case countdown => exact (worked hc hm).trans (closes (stepRun_of_one_lt (t := dropped) hd))
  case missed =>
    exact (worked hc hm).trans
      (closes ((stepRun_of_le_one (t := dropped) hd).trans (if_neg (not_le.2 hl))))
  case lapse =>
    intro u
    have hu : cancelIncoming t.unit dropped.line.crossover = u :=
      cancelIncoming_dropDayParts t.unit t.line
    rw [worked hc hm, ← hu]
    exact closes ((stepRun_of_le_one (t := dropped) hd).trans
      ((if_pos hl).trans (lapse_eq dropped.missReading)))

end Sys2Proof.Machine
end

section
/-! A step of a walker: what it leaves alone, the live slot it reaches, and the step of the
Day-Close Sweep. -/

namespace Sys2Proof.Machine

open Sys2Proof

/-! ## A walker step and what it leaves alone (R112, R144) -/

/-- What a step of a walker leaves as it stood, with the one message it may send (R184). -/
def OutsideWalk (s t : State) : Prop :=
  t.port = s.port ∧ t.gate = s.gate ∧ t.engine = s.engine ∧ t.readiness = s.readiness ∧
    t.bus.enable = s.bus.enable ∧ Announced s t ∧ t.pending = s.pending

/-- The sources a walker step latches: ATTENTION, and at the end of the walk the walk's own. -/
def latchedByWalk (status : BitVec 7) (w : Walked) (src : Source) : BitVec 7 :=
  (status ||| if w.attention then Source.attention.mask else 0) |||
    if w.ended then src.mask else 0

theorem finishWalk_eq (w : Walked) (src : Source) (s : State) :
    finishWalk w src s =
      { s with
        unit := { w.unit with inProgress := none }
        bus := { s.bus with status := latchedByWalk s.bus.status w src } } := by
  unfold finishWalk latchedByWalk State.latchAttention State.latch
  cases w.ended <;> cases w.attention <;> simp

/-- A step of a walker outside cold reset: the Record Unit that the walk leaves, with nothing under
way, and the sources latched (R112, R144). -/
theorem event_finishWalk {s : State} {f : State → State} {w : Walked} {src : Source}
    (hc : s.inColdReset = false) (hf : f s = finishWalk w src s) :
    ∃ t, event s f = .next t ∧ OutsideWalk s t ∧
      t.unit = { w.unit with inProgress := none } ∧
      t.bus.status = latchedByWalk s.bus.status w src := by
  refine ⟨_, event_live hc, ?_⟩
  rw [hf, finishWalk_eq]
  have hannounced : Announced s (settle s { s with
      unit := { w.unit with inProgress := none }
      bus := { s.bus with status := latchedByWalk s.bus.status w src } }) := by
    unfold Announced
    rw [settle_bus_outbound, settle_intOutput]
  exact ⟨⟨by simp, by simp, by simp, by simp, by simp, hannounced, by simp⟩, by simp, by simp⟩

/-! ## The live slot reached (R112) -/

theorem nextLive_eq_none {u : RecordUnit} {slot : Nat} (h : ∀ r ∈ u.records, r.slot < slot) :
    u.nextLive slot = none := by
  refine List.find?_eq_none.2 fun r hr => ?_
  simpa using h r hr

/-- Records below the slot are passed over. -/
theorem nextLive_eq_some {u : RecordUnit} {slot : Nat} {before after : List LineRecord}
    {r : LineRecord} (hu : u.records = before ++ r :: after)
    (hb : ∀ x ∈ before, x.slot < slot) (hr : slot ≤ r.slot) : u.nextLive slot = some r := by
  have hbefore : before.find? (fun x => decide (slot ≤ x.slot)) = none :=
    List.find?_eq_none.2 fun x hx => by simpa using hb x hx
  unfold RecordUnit.nextLive
  rw [hu, List.find?_append, hbefore, Option.none_or]
  exact List.find?_cons_of_pos (decide_eq_true hr)

/-! ## The Day-Close Sweep (R112) -/

theorem sweepWalk_of_none {u : RecordUnit} (h : u.nextLive u.sweep.pointer = none) :
    sweepWalk u = ⟨{ u with sweep := ⟨false, 0⟩ }, false, true⟩ := by
  unfold sweepWalk
  rw [h]

theorem sweepWalk_below_last {u : RecordUnit} {r : LineRecord}
    (h : u.nextLive u.sweep.pointer = some r) (hlast : r.slot < lastSlot) :
    sweepWalk u =
      ⟨{ (touch u r).commit with sweep := { u.sweep with pointer := r.slot + 1 } },
        (touch u r).attention, false⟩ := by
  unfold sweepWalk
  rw [h]
  exact if_neg (Nat.not_lt.2 hlast)

theorem sweepWalk_at_last {u : RecordUnit} {r : LineRecord}
    (h : u.nextLive u.sweep.pointer = some r) (hlast : lastSlot ≤ r.slot) :
    sweepWalk u =
      ⟨{ (touch u r).commit with sweep := ⟨false, 0⟩ }, (touch u r).attention, true⟩ := by
  unfold sweepWalk
  rw [h]
  exact if_pos (Nat.lt_succ_of_le hlast)

theorem exec_sweepStep {s : State} (hc : s.inColdReset = false)
    (hg : s.unit.inProgress = some .sweepStep) :
    ∃ t, exec .sweepStep s = .next t ∧ OutsideWalk s t ∧
      t.unit = { (sweepWalk s.unit).unit with inProgress := none } ∧
      t.bus.status = latchedByWalk s.bus.status (sweepWalk s.unit) .sweepDone := by
  refine event_finishWalk hc ?_
  unfold sweepStep
  rw [hg]

/-- Settles O38: what the step finds at or above the pointer decides what it leaves. -/
theorem sweepStepCatchesOneRecordUp : Obligations.SweepStepCatchesOneRecordUp := by
  intro s hc hg rest
  obtain ⟨t, he, ho, hu, hs⟩ := exec_sweepStep hc hg
  constructor
  · intro hnone
    refine ⟨t, he, ho, ?_⟩
    rw [hu, hs, sweepWalk_of_none (nextLive_eq_none hnone)]
    exact ⟨rfl, congrArg (· ||| Source.sweepDone.mask) BitVec.or_zero⟩
  · intro before after r hrec hb hr w latch
    have hnext := nextLive_eq_some hrec hb hr
    refine ⟨t, he, ho, fun hlast => ?_, fun hlast => ?_⟩
    · rw [hu, hs, sweepWalk_below_last hnext hlast]
      exact ⟨rfl, BitVec.or_zero⟩
    · rw [hu, hs, sweepWalk_at_last hnext hlast]
      exact ⟨rfl, rfl⟩

end Sys2Proof.Machine
end

section
/-! The three lot requests on a named record: the checks they share, and what the part holds once one
of them was served. -/

namespace Sys2Proof.Machine

open Sys2Proof

/-! ## A change of the record and the table counts around it (R152, R157) -/

/-- A checked change of a named record as `CheckedChange` has it, for a request whose content where no
record was found is `missing`: SET_LINE_LOT then reports entry 0xFF. -/
structure ChangesLine (h : Header) (op : UnitOp) (site : Word) (line : Byte) (missing : List Field)
    (report : Touch → List Field) (check : Touch → Option Status) (change : Touch → Touch) :
    Prop where
  carried : ∀ u,
    carryOut u ⟨h, op⟩ = onLine u h site line false true missing report (checkedBody check change)
  presented : ∀ gate, portRefuses gate op = none
  report_restart : ∀ g k t, report (t.restart g k) = report t
  check_restart : ∀ g k t, check (t.restart g k) = check t
  change_restart : ∀ g k t, change (t.restart g k) = (change t).restart g k

section Served

variable {s : State} {h : Header} {op : UnitOp} {site : Word} {line : Byte} {r : LineRecord}
  {missing : List Field} {report : Touch → List Field} {check : Touch → Option Status}
  {change : Touch → Touch}

theorem ChangesLine.served_refused
    (c : ChangesLine h op site line missing report check change) {status : Status}
    (hf : s.portFirst) (hk : KeyInRange site line)
    (hl : s.unit.lookup site.toNat line.toNat = some r)
    (hv : VersionAgrees h (touch s.unit r).line) (hs : check (touch s.unit r) = some status) :
    ∃ t, CarriesOut (rowOf h op) s t ∧
      Served s t h op (s.served (touch s.unit r).commit) (touch s.unit r).attention
        ⟨status, r.slot, (touch s.unit r).line.version, report (touch s.unit r)⟩ := by
  have hserved := served_of_portFirst (h := h) hf (c.presented _)
  dsimp only at hserved
  rw [c.carried, onLine_checked_refused hk ((lookup_start ..).trans hl)
    (by rw [touch_start]; exact hv) (by rw [touch_start, c.check_restart]; exact hs), touch_start,
    c.report_restart] at hserved
  exact hserved

/-- Served, with the record and the Record Unit around it as the change leaves them. -/
theorem ChangesLine.served_accepted
    (c : ChangesLine h op site line missing report check change) {y : LineRecord} {v : RecordUnit}
    {attention : Bool} (hf : s.portFirst) (hk : KeyInRange site line)
    (hl : s.unit.lookup site.toNat line.toNat = some r)
    (hv : VersionAgrees h (touch s.unit r).line) (hs : check (touch s.unit r) = none)
    (hy : change (touch s.unit r) = ⟨y, v, attention⟩)
    (hslot : y.slot = (touch s.unit r).line.slot) :
    ∃ t, CarriesOut (rowOf h op) s t ∧
      Served s t h op (s.served (v.putRecord y)) attention
        ⟨.accepted, r.slot, y.version, report ⟨y, v, attention⟩⟩ := by
  have hserved := served_of_portFirst (h := h) hf (c.presented _)
  dsimp only at hserved
  rw [c.carried, onLine_checked_accepted hk ((lookup_start ..).trans hl)
    (by rw [touch_start]; exact hv) (by rw [touch_start, c.check_restart]; exact hs), touch_start,
    c.change_restart, c.report_restart, hy] at hserved
  rw [← touch_slot s.unit r, ← hslot]
  exact hserved

end Served

/-! ## The lot a code finds (R36, R117, R130) -/

/-- The rows that SET_LINE_LOT and START_CROSSOVER share, on the lot a code finds: found, not
WITHDRAWN, of the record's kind; then `rest`. -/
def lotRows (u : RecordUnit) (kind : ProcessKind) (code : Word) (rest : List (Bool × Status)) :
    List (Bool × Status) :=
  let entry := u.findLot code
  (entry.isSome, .unknownLot) ::
    (entry.any fun i => decide (u.lots[i].state ≠ .withdrawn), .lotWithdrawn) ::
    (entry.any fun i => decide (u.lots[i].kind = some kind), .wrongKind) :: rest

theorem setLotTable_eq (u : RecordUnit) (r : LineRecord) (code : Word) :
    setLotTable u r code = (r.crossover.isNone, .crossoverOpen) :: lotRows u r.kind code [] := rfl

theorem crossoverTable_eq (u : RecordUnit) (r : LineRecord) (code : Word) :
    crossoverTable u r code =
      (decide (r.state = .active), .badState) :: (r.crossover.isNone, .crossoverOpen) ::
        lotRows u r.kind code
          [((u.findLot code).any fun i => decide (r.lot ≠ some i), .badParameter)] := rfl

/-- The first row of a table refuses the request, or the others decide. -/
theorem firstFailure_cons_elim (holds : Bool) (status : Status) (rest : List (Bool × Status))
    (ending : Ending) :
    (firstFailure ((holds, status) :: rest)).elim ending .refused =
      if holds then (firstFailure rest).elim ending .refused else .refused status := by
  cases holds <;> rfl

/-- The shared rows, checked one after another. -/
theorem lotRows_elim (u : RecordUnit) (kind : ProcessKind) (code : Word)
    (rest : List (Bool × Status)) (ending : Ending) :
    (firstFailure (lotRows u kind code rest)).elim ending .refused =
      (u.findLot code).elim (.refused .unknownLot) fun lot =>
        if u.lots[lot].state = .withdrawn then .refused .lotWithdrawn
        else if u.lots[lot].kind ≠ some kind then .refused .wrongKind
        else (firstFailure rest).elim ending .refused := by
  unfold lotRows
  cases u.findLot code with
  | none => rfl
  | some lot =>
    simp only [firstFailure_cons_elim, Option.isSome_some, Option.any_some, Option.elim_some,
      decide_eq_true_eq, ne_eq, ite_not, if_true]

/-- A change made with the lot that a code finds. -/
def Touch.withLot (t : Touch) (code : Word) (change : Touch → Fin 64 → Touch) : Touch :=
  (t.unit.findLot code).elim t (change t)

theorem withLot_found {t : Touch} {code : Word} {lot : Fin 64} (hf : t.unit.findLot code = some lot)
    (change : Touch → Fin 64 → Touch) : t.withLot code change = change t lot := by
  unfold Touch.withLot
  rw [hf]
  rfl

theorem restart_withLot (g : Option Grant) (k : Arbiter) (t : Touch) (code : Word)
    {change : Touch → Fin 64 → Touch}
    (hc : ∀ lot, change (t.restart g k) lot = (change t lot).restart g k) :
    (t.restart g k).withLot code change = (t.withLot code change).restart g k := by
  have hf : (t.restart g k).unit.findLot code = t.unit.findLot code := rfl
  unfold Touch.withLot
  rw [hf]
  cases t.unit.findLot code with
  | none => rfl
  | some lot => exact hc lot

/-- Counts alone changed leave every lot its code. -/
theorem CountsOnly.lot_code {u v : RecordUnit} (h : CountsOnly u v) (i : Fin 64) :
    v.lots[i].code = u.lots[i].code := by
  have hcode := congrArg Lot.code (h.lots i)
  exact hcode

/-- The code of a current lot, 0 for none. -/
theorem lotCodeOf_eq (lots : Vector Lot 64) (lot : Option (Fin 64)) :
    lotCodeOf lots lot = lot.elim 0 fun i => lots[i].code.toNat := by
  cases lot <;> rfl

/-- Crossover progress, 0 of 0 with none open. -/
theorem crossoverReport_eq (t : Touch) :
    crossoverReport t =
      [u8 t.line.state.code, u8 (t.line.crossover.elim 0 (·.pairsDone)),
        u8 (t.line.crossover.elim 0 (·.pairsRequired))] := by
  unfold crossoverReport LineRecord.progress
  cases t.line.crossover <;> rfl

end Sys2Proof.Machine
end

section
/-! SET_LINE_LOT, START_CROSSOVER and CANCEL_CROSSOVER: which check refuses them, and the record and
lot counts they leave. -/

namespace Sys2Proof.Machine

open Sys2Proof

/-! ## SET_LINE_LOT (R130, R131) -/

/-- The change of SET_LINE_LOT once its lot is found. -/
def Touch.changeLot (t : Touch) (lot : Fin 64) : Touch :=
  ((t.moveLotCounts lot).mapLine (·.setLot lot)).bumpVersion

/-- Moving the current user touches the lot counts alone. -/
theorem moveLotCounts_eq (t : Touch) (lot : Fin 64) :
    t.moveLotCounts lot = ⟨t.line, (t.moveLotCounts lot).unit, t.attention⟩ := by
  unfold Touch.moveLotCounts
  cases t.line.lot with
  | none => rfl
  | some old => dsimp only; split <;> rfl

theorem countsOnly_moveLotCounts (t : Touch) (lot : Fin 64) :
    CountsOnly t.unit (t.moveLotCounts lot).unit := by
  unfold Touch.moveLotCounts
  cases t.line.lot with
  | none => exact countsOnly_addCurrentUser _ _
  | some old =>
    dsimp only
    split
    · exact .refl _
    · exact (countsOnly_dropCurrentUser _ _).trans (countsOnly_addCurrentUser _ _)

theorem restart_changeLot (g : Option Grant) (k : Arbiter) (t : Touch) (lot : Fin 64) :
    (t.restart g k).changeLot lot = (t.changeLot lot).restart g k := by
  have hl : (t.restart g k).line = t.line := rfl
  unfold Touch.changeLot Touch.moveLotCounts
  rw [hl]
  cases t.line.lot with
  | none => rfl
  | some old => dsimp only; split <;> rfl

theorem setLineLot_changes (h : Header) {a : LineLotArgs} (ha : a.lot ≠ 0) :
    ChangesLine h (.setLineLot a) a.site a.line noLotContent lotReport
      (fun t => firstFailure (setLotTable t.unit t.line a.lot))
      (·.withLot a.lot Touch.changeLot) where
  carried u := by
    show carrySetLineLot u h a = _
    unfold carrySetLineLot
    rw [decide_eq_false ha]
    congr 1
    funext t
    show _ = (firstFailure (setLotTable t.unit t.line a.lot)).elim _ _
    rw [setLotTable_eq, firstFailure_cons_elim, lotRows_elim]
    cases t.line.crossover with
    | some c => rfl
    | none =>
      cases hf : t.unit.findLot a.lot with
      | none => rfl
      | some lot =>
        dsimp only
        rw [withLot_found hf]
        rfl
  presented _ := portRefuses_ungated rfl nofun
  report_restart _ _ _ := rfl
  check_restart _ _ _ := rfl
  change_restart g k t := restart_withLot g k t a.lot (restart_changeLot g k t)

/-- Settles O23: the table of R130 decides, and the lot its code finds becomes current. -/
theorem setLineLotMovesTheUser : Obligations.SetLineLotMovesTheUser := by
  intro s h a r hf hk ha hl hv w x
  have hc := setLineLot_changes h ha
  refine ⟨fun status hs => ?_, ?_⟩
  · rw [← lotCodeOf_eq]
    exact hc.served_refused hf hk hl hv hs
  · intro lot hs hfind u state y
    have hu : (w.moveLotCounts lot).unit = u := by
      unfold Touch.moveLotCounts
      dsimp only [u, x]
      cases w.line.lot with
      | none => rfl
      | some old => dsimp only; split <;> rfl
    have hy : w.withLot a.lot Touch.changeLot = ⟨y, u, w.attention⟩ := by
      rw [withLot_found hfind]
      unfold Touch.changeLot
      rw [moveLotCounts_eq, hu]
      rfl
    have hcode : u.lots[lot].code = a.lot := by
      rw [← hu, (countsOnly_moveLotCounts w lot).lot_code, (findLot_spec hfind).2]
    rw [← hcode]
    exact hc.served_accepted hf hk hl hv hs hy rfl

/-! ## START_CROSSOVER (R117, R118) -/

/-- The change of START_CROSSOVER once its lot is found. -/
def Touch.beginCrossover (t : Touch) (lot : Fin 64) : Touch :=
  ((t.mapLine (·.openCrossover lot t.profile.crossoverPairs)).mapUnit
    (addIncomingUser · lot)).bumpVersion

theorem startCrossover_changes (h : Header) {a : LineLotArgs} (ha : a.lot ≠ 0) :
    ChangesLine h (.startCrossover a) a.site a.line [] crossoverReport
      (fun t => firstFailure (crossoverTable t.unit t.line a.lot))
      (·.withLot a.lot Touch.beginCrossover) where
  carried u := by
    show carryStartCrossover u h a = _
    unfold carryStartCrossover
    rw [decide_eq_false ha]
    congr 1
    funext t
    show _ = (firstFailure (crossoverTable t.unit t.line a.lot)).elim _ _
    rw [crossoverTable_eq, firstFailure_cons_elim, firstFailure_cons_elim, lotRows_elim]
    simp only [decide_eq_true_eq, ne_eq, ite_not]
    congr 1
    cases t.line.crossover with
    | some c => rfl
    | none =>
      cases hf : t.unit.findLot a.lot with
      | none => rfl
      | some lot =>
        simp only [withLot_found hf, firstFailure_cons_elim, Option.any_some, Option.elim_some,
          decide_eq_true_eq, ite_not]
        rfl
  presented _ := portRefuses_ungated rfl nofun
  report_restart _ _ _ := rfl
  check_restart _ _ _ := rfl
  change_restart g k t := restart_withLot g k t a.lot fun _ => rfl

/-- Only an ACTIVE record passes the table of R117. -/
theorem active_of_crossoverTable {u : RecordUnit} {r : LineRecord} {code : Word}
    (h : firstFailure (crossoverTable u r code) = none) : r.state = .active := by
  by_contra hstate
  rw [crossoverTable_eq, firstFailure_cons, decide_eq_false hstate] at h
  cases h

/-! ## CANCEL_CROSSOVER (R127) -/

/-- The change of CANCEL_CROSSOVER on a record with a crossover open. -/
def Touch.dropCrossover (t : Touch) : Touch :=
  t.line.crossover.elim t fun c =>
    ((t.mapLine fun r => { r with crossover := none }).mapUnit
      (dropIncomingUser · c.incoming)).bumpVersion

theorem cancelCrossover_changes (h : Header) (a : KeyArgs) :
    ChangesLine h (.cancelCrossover a) a.site a.line [] crossoverReport
      (fun t => if t.line.crossover.isNone then some .badState else none)
      Touch.dropCrossover where
  carried u := by
    show carryCancelCrossover u h a = _
    unfold carryCancelCrossover
    congr 1
    funext t
    show _ = (if t.line.crossover.isNone then some Status.badState else none).elim
      (Ending.accepted t.dropCrossover) Ending.refused
    unfold Touch.dropCrossover
    cases t.line.crossover <;> rfl
  presented _ := portRefuses_ungated rfl nofun
  report_restart _ _ _ := rfl
  check_restart _ _ _ := rfl
  change_restart g k t := by
    have hl : (t.restart g k).line = t.line := rfl
    unfold Touch.dropCrossover
    rw [hl]
    cases t.line.crossover <;> rfl

theorem dropCrossover_eq {t : Touch} {c : Crossover} (hc : t.line.crossover = some c) :
    t.dropCrossover =
      ⟨{ t.line with crossover := none, version := t.line.version + 1 },
        dropIncomingUser t.unit c.incoming, t.attention⟩ := by
  unfold Touch.dropCrossover
  rw [hc]
  rfl

/-- Settles O24: the crossover part decides CANCEL_CROSSOVER, the table of R117 START_CROSSOVER. -/
theorem crossoverRequestsOpenAndDropThePart : Obligations.CrossoverRequestsOpenAndDropThePart := by
  constructor
  · intro s h a r hf hk hl hv w x
    have hc := cancelCrossover_changes h a
    refine ⟨fun hnone => ?_, fun c hopen => ?_⟩
    · have hserved := hc.served_refused hf hk hl hv (if_pos (by rw [hnone]; rfl))
      rw [crossoverReport_eq, hnone] at hserved
      exact hserved
    · exact hc.served_accepted hf hk hl hv (if_neg (by rw [hopen]; exact Bool.false_ne_true))
        (dropCrossover_eq hopen) rfl
  · intro s h a r hf hk ha hl hv w x pairs
    have hc := startCrossover_changes h ha
    refine ⟨fun status hs => ?_, fun lot hs hfind => ?_⟩
    · have hserved := hc.served_refused hf hk hl hv hs
      rw [crossoverReport_eq] at hserved
      exact hserved
    · have hreport : crossoverReport (w.beginCrossover lot) = [u8 2, u8 0, u8 pairs] :=
        congrArg (fun state : SurvState => [u8 state.code, u8 0, u8 pairs])
          (active_of_crossoverTable hs)
      rw [← hreport]
      exact hc.served_accepted hf hk hl hv hs (withLot_found hfind _) rfl

end Sys2Proof.Machine
end

section
/-! The last pair of a crossover: what its sums decide about the lot, and how the lot and attention
counts follow. -/

namespace Sys2Proof.Machine

open Sys2Proof

/-! ## The meeting that completes a pair (R120 to R122) -/

/-- The sums of a completed pair: NEW less OLD added on every point (R122). -/
theorem addPoints_subPoints (c : Crossover) (newValues oldValues : Points Int) :
    addPoints c.sums (subPoints newValues oldValues) = sumsAfter c newValues oldValues := by
  simp only [addPoints, subPoints, sumsAfter, build12_getElem]

/-- A reading that meets the other side's with both lots OPEN completes the pair: its own values are
those of its side, the held ones those of the other. -/
theorem meet_of_pair {t : Touch} {c : Crossover} {held : Held} {side : Side} {day : Nat}
    (hc : t.line.crossover = some c) (hh : c.held = some held) (hside : held.side ≠ side)
    (hday : held.day = day) (hopen : bothOpen t c = true) (values : Points Int) :
    ∃ newValues oldValues, t.meet side day values = t.completePair c newValues oldValues ∧
      (if side = .new then sumsAfter c values held.values else sumsAfter c held.values values) =
        sumsAfter c newValues oldValues := by
  unfold Touch.meet
  rw [hc]
  dsimp only
  rw [hh]
  dsimp only
  rw [if_pos ⟨eq_other_of_ne hside, hday⟩, if_pos hopen]
  cases side with
  | new => exact ⟨values, held.values, rfl, rfl⟩
  | old => exact ⟨held.values, values, rfl, rfl⟩

/-! ## What a completed pair leaves (R122, R123) -/

section Completed

variable {t : Touch} {c : Crossover} {newValues oldValues : Points Int}

theorem completePair_of_more (h : c.pairsDone + 1 ≠ c.pairsRequired) :
    t.completePair c newValues oldValues =
      ⟨t.mapLine fun r =>
          { r with
            crossover := some { c with
              sums := sumsAfter c newValues oldValues
              pairsDone := c.pairsDone + 1
              held := none } },
        .paired, none⟩ := by
  unfold Touch.completePair
  rw [addPoints_subPoints]
  exact if_neg h

theorem completePair_of_match (h : c.pairsDone + 1 = c.pairsRequired)
    (hm : crossoverMatches t.profile t.line.kind (sumsAfter c newValues oldValues) c.pairsRequired =
      true) :
    t.completePair c newValues oldValues = ⟨t.switchLot c, .switched, some c.pairsRequired⟩ := by
  unfold Touch.completePair
  rw [addPoints_subPoints]
  exact (if_pos h).trans (if_pos hm)

theorem completePair_of_mismatch (h : c.pairsDone + 1 = c.pairsRequired)
    (hm : crossoverMatches t.profile t.line.kind (sumsAfter c newValues oldValues) c.pairsRequired ≠
      true) :
    t.completePair c newValues oldValues =
      ⟨t.mismatchCrossover c, .mismatch, some c.pairsRequired⟩ := by
  unfold Touch.completePair
  rw [addPoints_subPoints]
  exact (if_pos h).trans (if_neg hm)

end Completed

/-! ## The two ends of a crossover (R124, R125) -/

theorem switchLot_eq {t : Touch} {current : Fin 64} (hl : t.line.lot = some current)
    (c : Crossover) :
    t.switchLot c =
      ⟨{ t.line with lot := some c.incoming, crossover := none },
        addCurrentUser (dropIncomingUser (dropCurrentUser t.unit current) c.incoming) c.incoming,
        t.attention⟩ := by
  unfold Touch.switchLot
  rw [hl]
  rfl

/-- MISMATCH is an unacknowledged event, so attention is wanted, and set where it was not (R81). -/
theorem mismatchCrossover_eq (t : Touch) (c : Crossover) :
    t.mismatchCrossover c =
      ⟨{ t.line with crossover := none, mismatchEvent := true, attention := true },
        countFollows (dropIncomingUser t.unit c.incoming) t.line.region t.line.attention true,
        t.attention || countPasses t.unit t.line.region t.line.attention true⟩ := by
  have hwants : LineRecord.wantsAttention
      { t.line with crossover := none, mismatchEvent := true } = true := Bool.or_true _
  unfold Touch.mismatchCrossover
  rw [recomputeAttention_eq]
  unfold Touch.becomes Touch.mapLine Touch.mapUnit
  dsimp only
  rw [hwants]
  rfl

/-! ## The crossover reading on the last pair -/

theorem countFollows_profiles (u : RecordUnit) (region : Fin 64) (before after : Bool) :
    (countFollows u region before after).profiles = u.profiles := by
  cases before <;> cases after <;> rfl

theorem beforeMeeting_region (w : Touch) (side : Side) (day : Nat) (aims values : Points Int) :
    (beforeMeeting w side day aims values).region = w.line.region := by
  cases side <;> rfl

theorem beforeMeeting_kind (w : Touch) (side : Side) (day : Nat) (aims values : Points Int) :
    (beforeMeeting w side day aims values).kind = w.line.kind := by
  cases side <;> rfl

theorem beforeMeeting_profile (w : Touch) (side : Side) (day : Nat) (aims values : Points Int) :
    (beforeMeeting w side day aims values).profile = w.line.profile := by
  cases side <;> rfl

theorem becomes_profile (w : Touch) {y : LineRecord} (h : y.profile = w.line.profile) :
    (w.becomes y).profile = w.profile := by
  unfold Touch.profile Touch.becomes
  simp only [countFollows_profiles, h]

/-- Settles O32: the pair is completed on the record as the reading came to the meeting, and on the
last one the mean differences decide between the switch and the mismatch. -/
theorem lastPairDecidesTheLot : Obligations.LastPairDecidesTheLot := by
  intro s h raw r lot current c held side aims hf hk rd w x values y sums within u passed hl hs hfind
    hactive hc hlot haims hside hheld hother hday hincoming hcurrent answered
  have hyc : y.crossover = some c := (beforeMeeting_crossover ..).trans hc
  have hylot : y.lot = some current := (beforeMeeting_lot ..).trans hlot
  have hregion : y.region = x.region := beforeMeeting_region ..
  have ha := admitReading_of_findLot hs hfind
  have hopen : bothOpen (w.becomes y) c = true := by
    rw [bothOpen_becomes w hylot, hincoming, hcurrent]
    rfl
  obtain ⟨newValues, oldValues, hpair, hsums⟩ :=
    meet_of_pair (t := w.becomes y) hyc hheld hother hday hopen values
  have hmatches : crossoverMatches (w.becomes y).profile (w.becomes y).line.kind
      (sumsAfter c newValues oldValues) c.pairsRequired = true ↔ within := by
    rw [← hsums, becomes_profile w (beforeMeeting_profile ..)]
    show crossoverMatches _ y.kind sums _ = true ↔ _
    rw [show y.kind = x.kind from beforeMeeting_kind ..]
    exact crossoverMatches_iff
  have hmeet := (handle_crossover hactive hc hlot haims hside rd).trans hpair
  refine ⟨fun hmore => ?_, fun hlast hwithin => ?_, fun hlast hbeyond => ?_⟩
  · rw [completePair_of_more hmore, ← hsums, becomes_mapLine w y rfl] at hmeet
    exact served_becomes h hf hk hl ha hmeet (progress_of_some
      (x := { c with sums := sums, pairsDone := c.pairsDone + 1, held := none }) rfl)
  · rw [completePair_of_match hlast (hmatches.2 hwithin),
      switchLot_eq (t := w.becomes y) hylot] at hmeet
    exact served_accepted h hf hk hl ha hmeet
  · rw [completePair_of_mismatch hlast (mt hmatches.1 hbeyond), mismatchCrossover_eq] at hmeet
    rw [← hregion]
    exact served_accepted h hf hk hl ha hmeet

end Sys2Proof.Machine
end

section
/-! ACKNOWLEDGE, and the requests that start and stop the Margin Survey: the record and the survey
they leave, and what they report. -/

namespace Sys2Proof.Machine

open Sys2Proof

/-! ## ACKNOWLEDGE (R135) -/

/-- Nothing is left to want attention once the level is acknowledged and the events are emptied
(R81). -/
theorem wantsAttention_acknowledged (r : LineRecord) : r.acknowledged.wantsAttention = false := by
  simp [LineRecord.wantsAttention, LineRecord.acknowledged]

/-- A bit cleared takes 1 from the region's count where it was set. -/
theorem countFollows_clear (u : RecordUnit) (region : Fin 64) (bit : Bool) :
    countFollows u region bit false = if bit then dropAttention u region else u := by
  cases bit <;> rfl

/-- A bit cleared passes no count from 0. -/
theorem countPasses_clear (u : RecordUnit) (region : Fin 64) (bit : Bool) :
    countPasses u region bit false = false := by
  simp [countPasses]

theorem acknowledge_checked (h : Header) (a : KeyArgs) :
    CheckedChange h (.acknowledge a) a.site a.line
      (fun t => levelReport t ++ [u16 t.region.attentionCount]) (fun _ => none)
      fun t => (t.mapLine LineRecord.acknowledged).bumpVersion.recomputeAttention where
  carried _ := rfl
  presented _ := portRefuses_ungated rfl nofun
  report_restart _ _ _ := rfl
  check_restart _ _ _ := rfl
  change_restart _ _ _ := restart_bumpVersion_recomputeAttention ..

/-- Settles O25: the acknowledged record wants no attention, so its bit is cleared and its region's
count follows. -/
theorem acknowledgeClearsAttention : Obligations.AcknowledgeClearsAttention := by
  intro s h a r hf hk hl hv w x u
  have hy : (w.mapLine LineRecord.acknowledged).bumpVersion.recomputeAttention =
      w.becomes { x with
        ackLevel := x.level
        lapseEvent := false
        mismatchEvent := false
        attention := false
        version := x.version + 1 } := by
    rw [bumpVersion_recomputeAttention_eq rfl rfl, wantsAttention_acknowledged]
    rfl
  have hserved := (acknowledge_checked h a).served_accepted hf hk hl hv rfl hy rfl
  simp only [Touch.becomes, countFollows_clear, countPasses_clear, Bool.or_false] at hserved
  exact hserved

/-! ## START_SURVEY and STOP_SURVEY (R143, R147) -/

/-- The survey as reported, its state by R179's register code (log 30). -/
theorem surveyReport_eq (v : Survey) :
    surveyReport v =
      [u8 (match v.state with | .noResult => 0 | .running => 1 | .done => 2 | .stopped => 3),
       u8 v.margin, u16 v.visited, u16 v.marked, u16 v.firstMarked] := by
  unfold surveyReport
  cases v.state <;> rfl

theorem carryStartSurvey_outOfRange {u : RecordUnit} {margin : Byte}
    (h : margin.toNat < 50 ∨ 99 < margin.toNat) :
    carryStartSurvey u margin = answer u (.plain .badParameter (surveyReport u.survey)) := by
  unfold carryStartSurvey
  exact if_pos h

/-- A START_SURVEY whose margin is in range goes by the survey's state (R143). -/
theorem carryStartSurvey_inRange {u : RecordUnit} {margin : Byte} (hlow : 50 ≤ margin.toNat)
    (hhigh : margin.toNat ≤ 99) :
    carryStartSurvey u margin =
      if u.survey.state = .running then answer u (.plain .walkActive (surveyReport u.survey))
      else
        ⟨{ u with survey := ⟨.running, margin.toNat, 1, 0, 0, 0⟩ }, false,
          .plain .accepted (surveyReport ⟨.running, margin.toNat, 1, 0, 0, 0⟩)⟩ := by
  unfold carryStartSurvey
  exact if_neg (by omega)

theorem carryStopSurvey_refused {u : RecordUnit} (h : u.survey.state ≠ .running) :
    carryStopSurvey u = answer u (.plain .badState (surveyReport u.survey)) := by
  unfold carryStopSurvey
  exact if_neg h

/-- The stopped survey's waiting step is withdrawn, so its count at the arbiter is 0 (R147). -/
theorem carryStopSurvey_accepted {u : RecordUnit} (h : u.survey.state = .running) :
    carryStopSurvey u =
      ⟨{ u with
          survey := { u.survey with state := .stopped, pointer := 0 }
          arbiter := { u.arbiter with surveyCount := 0 } }, false,
        .plain .accepted (surveyReport { u.survey with state := .stopped, pointer := 0 })⟩ := by
  unfold carryStopSurvey
  exact if_pos h

/-- Any request but a gated one or a SUBMIT_READING, served: the part holds what carrying it out on
the Record Unit that its grant started has left, the arbiter included. -/
theorem served_of_carryOut {s : State} {h : Header} {v : RecordUnit} {attention : Bool} {r : Reply}
    (op : UnitOp) (hf : s.portFirst) (ho : isGated op = false)
    (hr : ∀ raw, op ≠ .submitReading raw)
    (hc : carryOut (s.unit.start (.command ⟨h, op⟩ false) s.afterGrant) ⟨h, op⟩ =
      ⟨v, attention, r⟩) :
    ∃ t, CarriesOut (rowOf h op) s t ∧
      Served s t h op { v with inProgress := none } attention r := by
  have hserved := served_of_portFirst (h := h) hf (portRefuses_ungated ho hr)
  rw [hc] at hserved
  exact hserved

/-- Settles O40: the margin and the survey's state decide, and only the accepted STOP_SURVEY touches
the arbiter beside its own grant. -/
theorem surveyStartsAndStops : Obligations.SurveyStartsAndStops := by
  intro s h hf v report
  have hreport : ∀ v, report v = surveyReport v := fun v => (surveyReport_eq v).symm
  simp only [hreport]
  refine ⟨fun p => ⟨fun hout => ?outOfRange, fun hlow hhigh hrun => ?active,
    fun hlow hhigh hidle => ?started⟩, fun hidle => ?idle, fun hrun => ?stopped⟩
  case outOfRange =>
    exact served_ungated (.startSurvey p) hf rfl nofun fun g k =>
      carryStartSurvey_outOfRange (u := s.unit.start g k) hout
  case active =>
    exact served_ungated (.startSurvey p) hf rfl nofun fun g k =>
      (carryStartSurvey_inRange (u := s.unit.start g k) hlow hhigh).trans (if_pos hrun)
  case started =>
    exact served_ungated (v := { s.unit with survey := ⟨.running, p.toNat, 1, 0, 0, 0⟩ })
      (.startSurvey p) hf rfl nofun fun g k =>
        (carryStartSurvey_inRange (u := s.unit.start g k) hlow hhigh).trans (if_neg hidle)
  case idle =>
    exact served_ungated .stopSurvey hf rfl nofun fun g k =>
      carryStopSurvey_refused (u := s.unit.start g k) hidle
  case stopped =>
    exact served_of_carryOut .stopSurvey hf rfl nofun
      (carryStopSurvey_accepted (u := s.unit.start _ s.afterGrant) hrun)

end Sys2Proof.Machine
end

section
/-! A step of the Margin Survey: which records it marks, and what it leaves of the survey. -/

namespace Sys2Proof.Machine

open Sys2Proof

/-! ## The marking test (R145) -/

theorem any_points_iff {p : Fin 12 → Bool} : points.any p = true ↔ ∃ i, p i = true := by
  simp [List.any_eq_true, mem_points]

/-- A point meets a margin limit by its deviation or by one of its sums (R145). -/
theorem pointMarginal_iff {l : Limits} {margin : Nat} {p : PointStats} :
    pointMarginal l margin p = true ↔
      (∃ d, p.lastDev = some d ∧ l.a * margin / 100 ≤ d.natAbs) ∨
        l.h * margin / 100 ≤ p.cusumHigh ∨ l.h * margin / 100 ≤ p.cusumLow := by
  unfold pointMarginal
  cases p.lastDev <;> simp [or_assoc]

theorem marginalTest_iff {pr : Profile} {margin : Nat} {r : LineRecord} :
    marginalTest pr margin r = true ↔
      r.state = .active ∧ ∃ i : Fin 12, isPoint r.kind i = true ∧
        ((∃ d, r.stats[i].lastDev = some d ∧
            pr.limits[quantityOf i].a * margin / 100 ≤ d.natAbs) ∨
          pr.limits[quantityOf i].h * margin / 100 ≤ r.stats[i].cusumHigh ∨
            pr.limits[quantityOf i].h * margin / 100 ≤ r.stats[i].cusumLow) := by
  simp only [marginalTest, any_points_iff, Bool.and_eq_true, decide_eq_true_eq, pointMarginal_iff]
  rfl

/-! ## The walk (R144) -/

/-- A record visited, marked or not: the survey with the visit counted. -/
theorem Survey.visit_eq (v : Survey) (slot : Nat) (marked : Bool) :
    v.visit slot marked =
      { v with
        visited := v.visited + 1
        marked := if marked then v.marked + 1 else v.marked
        firstMarked := if marked = true ∧ v.firstMarked = 0 then slot else v.firstMarked
        pointer := slot + 1 } := by
  simp only [Survey.visit, Bool.and_eq_true, beq_iff_eq]

theorem surveyWalk_of_none {u : RecordUnit} (h : u.nextLive u.survey.pointer = none) :
    surveyWalk u = ⟨{ u with survey := u.survey.finish }, false, true⟩ := by
  unfold surveyWalk
  rw [h]

/-- A record reached is caught up and its mark set or cleared by the marking test. -/
theorem surveyWalk_below_last {u : RecordUnit} {r : LineRecord} {marked : Bool}
    (h : u.nextLive u.survey.pointer = some r)
    (hm : marginalTest (touch u r).profile u.survey.margin (touch u r).line = marked)
    (hlast : r.slot < lastSlot) :
    surveyWalk u =
      ⟨{ (touch u r).unit.putRecord { (touch u r).line with marginal := marked } with
          survey := u.survey.visit r.slot marked }, (touch u r).attention, false⟩ := by
  subst hm
  unfold surveyWalk
  rw [h]
  exact if_neg (Nat.not_lt.2 hlast)

theorem surveyWalk_at_last {u : RecordUnit} {r : LineRecord} {marked : Bool}
    (h : u.nextLive u.survey.pointer = some r)
    (hm : marginalTest (touch u r).profile u.survey.margin (touch u r).line = marked)
    (hlast : lastSlot ≤ r.slot) :
    surveyWalk u =
      ⟨{ (touch u r).unit.putRecord { (touch u r).line with marginal := marked } with
          survey := (u.survey.visit r.slot marked).finish }, (touch u r).attention, true⟩ := by
  subst hm
  unfold surveyWalk
  rw [h]
  exact if_pos (Nat.lt_succ_of_le hlast)

theorem exec_surveyStep {s : State} (hc : s.inColdReset = false)
    (hg : s.unit.inProgress = some .surveyStep) :
    ∃ t, exec .surveyStep s = .next t ∧ OutsideWalk s t ∧
      t.unit = { (surveyWalk s.unit).unit with inProgress := none } ∧
      t.bus.status = latchedByWalk s.bus.status (surveyWalk s.unit) .surveyDone := by
  refine event_finishWalk hc ?_
  unfold surveyStep
  rw [hg]

/-- Settles O39: what the step finds at or above the pointer decides what it leaves, and the marking
test the mark. -/
theorem surveyStepMarksByTheMargin : Obligations.SurveyStepMarksByTheMargin := by
  intro s hc hg v rest
  obtain ⟨t, he, ho, hu, hs⟩ := exec_surveyStep hc hg
  constructor
  · intro hnone
    refine ⟨t, he, ho, ?_⟩
    rw [hu, hs, surveyWalk_of_none (nextLive_eq_none hnone)]
    exact ⟨rfl, congrArg (· ||| Source.surveyDone.mask) BitVec.or_zero⟩
  · intro before after r marked hrec hb hr w latch hmarked result u
    have hm : marginalTest w.profile v.margin w.line = marked :=
      Bool.eq_iff_iff.2 (marginalTest_iff.trans hmarked.symm)
    have hnext := nextLive_eq_some hrec hb hr
    refine ⟨t, he, ho, fun hlast => ?_, fun hlast => ?_⟩
    · rw [hu, hs, surveyWalk_below_last hnext hm hlast, Survey.visit_eq]
      exact ⟨rfl, BitVec.or_zero⟩
    · rw [hu, hs, surveyWalk_at_last hnext hm hlast, Survey.visit_eq]
      exact ⟨rfl, rfl⟩

end Sys2Proof.Machine
end

section
/-! A scan of the live records: the records it visits as their catch-up leaves them, the matches it
gathers from them, and where it ends. -/

namespace Sys2Proof.Machine

open Sys2Proof

/-! ## A walk and the slots it visits (R99, R139) -/

/-- The lines of visited records, each as its own catch-up leaves it. -/
def caughtUp (u : RecordUnit) : List LineRecord → List LineRecord
  | [] => []
  | r :: rest => (touch u r).line :: caughtUp (touch u r).commit rest

theorem walked_append (u : RecordUnit) (before after : List LineRecord) :
    walked u (before ++ after) = walked (walked u before) after :=
  List.foldl_append

/-- A catch-up writes its record back to its own slot. -/
theorem recordAt_touch_commit (u : RecordUnit) (r : LineRecord) (slot : Nat) :
    (touch u r).commit.recordAt slot =
      if r.slot = slot then (u.recordAt slot).map fun _ => (touch u r).line
      else u.recordAt slot := by
  have hrecords : (touch u r).unit.recordAt slot = u.recordAt slot := by
    unfold RecordUnit.recordAt
    rw [(touch_kept u r).unit_fields.1]
  unfold Touch.commit
  rw [recordAt_putRecord, touch_slot, hrecords]

/-- A walk leaves the slots it does not visit. -/
theorem recordAt_walked_of_ne {u : RecordUnit} {visited : List LineRecord} {slot : Nat}
    (h : ∀ r ∈ visited, r.slot ≠ slot) : (walked u visited).recordAt slot = u.recordAt slot := by
  induction visited generalizing u with
  | nil => rfl
  | cons r rest ih =>
    obtain ⟨hr, hrest⟩ := List.forall_mem_cons.1 h
    exact (ih hrest).trans ((recordAt_touch_commit u r slot).trans (if_neg hr))

/-- Records visited in a table that holds them in rising slots: each slot then holds its own record
as caught up, as no other catch-up of the walk touches it. -/
theorem filterMap_recordAt_walked {u : RecordUnit} {visited : List LineRecord}
    (hrise : visited.Pairwise fun a b => a.slot < b.slot)
    (hlive : ∀ r ∈ visited, (u.recordAt r.slot).isSome) :
    (visited.filterMap fun r => (walked u visited).recordAt r.slot) = caughtUp u visited := by
  induction visited generalizing u with
  | nil => rfl
  | cons r rest ih =>
    obtain ⟨habove, hrise⟩ := List.pairwise_cons.1 hrise
    obtain ⟨hr, hlive⟩ := List.forall_mem_cons.1 hlive
    obtain ⟨x, hx⟩ := Option.isSome_iff_exists.1 hr
    have hhead : (walked (touch u r).commit rest).recordAt r.slot = some (touch u r).line := by
      rw [recordAt_walked_of_ne fun y hy => (habove y hy).ne', recordAt_touch_commit, if_pos rfl, hx]
      rfl
    have htail : ∀ y ∈ rest, ((touch u r).commit.recordAt y.slot).isSome := by
      intro y hy
      rw [recordAt_touch_commit, if_neg (habove y hy).ne]
      exact hlive y hy
    exact (List.filterMap_cons_some
      (f := fun y : LineRecord => (walked (touch u r).commit rest).recordAt y.slot) hhead).trans
        (congrArg (_ :: ·) (ih hrise htail))

/-- The last record visited stands in its slot as its catch-up leaves it. -/
theorem recordAt_walked_last {u : RecordUnit} {before : List LineRecord} {r : LineRecord}
    (hbefore : ∀ x ∈ before, x.slot ≠ r.slot) (hlive : (u.recordAt r.slot).isSome) :
    (walked u (before ++ [r])).recordAt r.slot = some (touch (walked u before) r).line := by
  obtain ⟨x, hx⟩ := Option.isSome_iff_exists.1 hlive
  rw [walked_append]
  show (touch (walked u before) r).commit.recordAt r.slot = _
  rw [recordAt_touch_commit, if_pos rfl, recordAt_walked_of_ne hbefore, hx]
  rfl

/-! ## One record scanned (R139) -/

/-- What a scan has gathered once a record more was visited. -/
def Scan.visit (a : ScanArgs) (acc : Scan) (r : LineRecord) : Scan :=
  { unit := (touch acc.unit r).commit
    attention := acc.attention || (touch acc.unit r).attention
    found :=
      if scanMatches a (touch acc.unit r).line then acc.found ++ [(touch acc.unit r).line]
      else acc.found
    visited := acc.visited + 1
    stoppedAt := none }

theorem scanWalk_cons (a : ScanArgs) (r : LineRecord) (rest : List LineRecord) (acc : Scan) :
    scanWalk a (r :: rest) acc =
      if (acc.visit a r).found.length = a.maximum.toNat then
        { acc.visit a r with stoppedAt := some r.slot }
      else scanWalk a rest (acc.visit a r) := rfl

theorem Scan.visit_found_of_match {a : ScanArgs} {acc : Scan} {r : LineRecord}
    (h : scanMatches a (touch acc.unit r).line = true) :
    (acc.visit a r).found = acc.found ++ [(touch acc.unit r).line] :=
  if_pos h

theorem Scan.visit_found_of_no_match {a : ScanArgs} {acc : Scan} {r : LineRecord}
    (h : ¬scanMatches a (touch acc.unit r).line = true) : (acc.visit a r).found = acc.found :=
  if_neg h

theorem Scan.visit_found_length_le (a : ScanArgs) (acc : Scan) (r : LineRecord) :
    (acc.visit a r).found.length ≤ acc.found.length + 1 := by
  by_cases hit : scanMatches a (touch acc.unit r).line = true
  · simp [Scan.visit_found_of_match hit]
  · simp [Scan.visit_found_of_no_match hit]

/-! ## The whole scan (R139, R140) -/

/-- What a scan that started from `acc` and visited `visited` has gathered in `out`. -/
structure Gathered (a : ScanArgs) (acc out : Scan) (visited : List LineRecord) : Prop where
  unit : out.unit = walked acc.unit visited
  attention : out.attention = (acc.attention || walkLatches acc.unit visited)
  found : out.found = acc.found ++ (caughtUp acc.unit visited).filter (scanMatches a)
  visited : out.visited = acc.visited + visited.length

theorem Gathered.nil (a : ScanArgs) (acc : Scan) : Gathered a acc acc [] :=
  ⟨rfl, (Bool.or_false _).symm, (List.append_nil _).symm, rfl⟩

theorem Gathered.cons {a : ScanArgs} {acc out : Scan} {r : LineRecord} {rest : List LineRecord}
    (h : Gathered a (acc.visit a r) out rest) : Gathered a acc out (r :: rest) where
  unit := h.unit
  attention := h.attention.trans (Bool.or_assoc ..)
  found := by
    rw [h.found, caughtUp]
    by_cases hit : scanMatches a (touch acc.unit r).line = true
    · rw [Scan.visit_found_of_match hit, List.filter_cons_of_pos hit, List.append_assoc]
      rfl
    · rw [Scan.visit_found_of_no_match hit, List.filter_cons_of_neg hit]
      rfl
  visited := by
    rw [h.visited, List.length_cons]
    simp only [Scan.visit]
    omega

/-- How a scan from `u` has ended in `out`: short of its maximum with no record left, or at its
maximum on the record that brought it there. -/
inductive ScanEnds (a : ScanArgs) (u : RecordUnit) (out : Scan) :
    List LineRecord → List LineRecord → Prop where
  | exhausted {visited : List LineRecord} (short : out.found.length < a.maximum.toNat)
      (stopped : out.stoppedAt = none) : ScanEnds a u out visited []
  | full {before rest : List LineRecord} {r : LineRecord}
      (full : out.found.length = a.maximum.toNat) (stopped : out.stoppedAt = some r.slot)
      (hit : scanMatches a (touch (walked u before) r).line = true) :
      ScanEnds a u out (before ++ [r]) rest

/-- A record visited first changes nothing about how the scan ends. -/
theorem ScanEnds.cons {a : ScanArgs} {u : RecordUnit} {out : Scan} {r : LineRecord}
    {visited rest : List LineRecord} (h : ScanEnds a (touch u r).commit out visited rest) :
    ScanEnds a u out (r :: visited) rest := by
  cases h with
  | exhausted short stopped => exact .exhausted short stopped
  | full full stopped hit => exact .full (before := r :: _) full stopped hit

/-- A scan visits records from the first on, to the one that fills it or to the last. -/
theorem scanWalk_spec (a : ScanArgs) (l : List LineRecord) (acc : Scan)
    (hshort : acc.found.length < a.maximum.toNat) (hstopped : acc.stoppedAt = none) :
    ∃ visited rest, l = visited ++ rest ∧ Gathered a acc (scanWalk a l acc) visited ∧
      ScanEnds a acc.unit (scanWalk a l acc) visited rest := by
  induction l generalizing acc with
  | nil => exact ⟨[], [], rfl, .nil a acc, .exhausted hshort hstopped⟩
  | cons r rest ih =>
    rw [scanWalk_cons]
    split
    · rename_i hfull
      have hit : scanMatches a (touch acc.unit r).line = true := by
        by_contra hmiss
        rw [Scan.visit_found_of_no_match hmiss] at hfull
        exact hshort.ne hfull
      obtain ⟨hunit, hattention, hfound, hvisited⟩ := (Gathered.nil a (acc.visit a r)).cons
      exact ⟨[r], rest, rfl, ⟨hunit, hattention, hfound, hvisited⟩,
        .full (before := []) hfull rfl hit⟩
    · rename_i hmore
      have hlength := Scan.visit_found_length_le a acc r
      obtain ⟨visited, left, hl, hg, he⟩ := ih (acc.visit a r) (by omega) rfl
      exact ⟨r :: visited, left, congrArg (r :: ·) hl, hg.cons, he.cons⟩

theorem ScanEnds.found_le {a : ScanArgs} {u : RecordUnit} {out : Scan}
    {visited rest : List LineRecord} (h : ScanEnds a u out visited rest) :
    out.found.length ≤ a.maximum.toNat := by
  cases h with
  | exhausted short stopped => exact short.le
  | full full stopped hit => exact full.le

/-- A scan short of its maximum has visited every record. -/
theorem ScanEnds.rest_eq_nil {a : ScanArgs} {u : RecordUnit} {out : Scan}
    {visited rest : List LineRecord} (h : ScanEnds a u out visited rest)
    (hshort : out.found.length < a.maximum.toNat) : rest = [] := by
  cases h with
  | exhausted short stopped => rfl
  | full full stopped hit => exact absurd full hshort.ne

/-- A full scan has stopped at a record that matches as its catch-up leaves it. -/
theorem ScanEnds.exists_last {a : ScanArgs} {u : RecordUnit} {out : Scan}
    {visited rest : List LineRecord} (h : ScanEnds a u out visited rest)
    (hfull : out.found.length = a.maximum.toNat)
    (hrise : visited.Pairwise fun a b => a.slot < b.slot)
    (hlive : ∀ r ∈ visited, (u.recordAt r.slot).isSome) :
    ∃ r x, visited.getLast? = some r ∧ (walked u visited).recordAt r.slot = some x ∧
      scanMatches a x = true := by
  cases h with
  | exhausted short stopped => exact absurd hfull short.ne
  | @full before _ r full stopped hit =>
    have hbelow : ∀ x ∈ before, x.slot < r.slot := fun x hx =>
      (List.pairwise_append.1 hrise).2.2 x hx r List.mem_cons_self
    exact ⟨r, _, List.getLast?_concat, recordAt_walked_last (fun x hx => (hbelow x hx).ne)
      (hlive r (by simp)), hit⟩

/-- The resume slot by the last slot visited, where a full scan stopped below slot 4095 (R139). -/
theorem ScanEnds.resume_eq {a : ScanArgs} {u : RecordUnit} {out : Scan}
    {visited rest : List LineRecord} (h : ScanEnds a u out visited rest)
    (hpos : ∀ r ∈ visited, 1 ≤ r.slot) {stop : Nat}
    (hstop : stop =
      if out.found.length = a.maximum.toNat then visited.getLast?.elim 0 (·.slot) else 0) :
    out.resume = if stop = 0 ∨ stop = 4095 then 0 else stop + 1 := by
  unfold Scan.resume
  cases h with
  | exhausted short stopped =>
    rw [if_neg short.ne] at hstop
    rw [stopped, hstop]
    rfl
  | @full before _ r full stopped hit =>
    rw [if_pos full, List.getLast?_concat, Option.elim_some] at hstop
    have hr : stop ≠ 0 := hstop ▸ Nat.one_le_iff_ne_zero.1 (hpos r (by simp))
    simp only [stopped, ← hstop, hr, false_or]
    rfl

/-! ## The request under way beside a scan (R16) -/

/-- A scan with a request under way. -/
def Scan.start (acc : Scan) (g : Grant) (k : Arbiter) : Scan :=
  { acc with unit := acc.unit.start g k }

theorem Scan.visit_start (a : ScanArgs) (acc : Scan) (r : LineRecord) (g : Grant) (k : Arbiter) :
    (acc.start g k).visit a r = (acc.visit a r).start g k := by
  unfold Scan.visit Scan.start
  simp only [touch_start]
  rfl

theorem scanWalk_start (a : ScanArgs) (l : List LineRecord) (acc : Scan) (g : Grant)
    (k : Arbiter) : scanWalk a l (acc.start g k) = (scanWalk a l acc).start g k := by
  induction l generalizing acc with
  | nil => rfl
  | cons r rest ih =>
    rw [scanWalk_cons, scanWalk_cons, Scan.visit_start, ih]
    by_cases hfull : (acc.visit a r).found.length = a.maximum.toNat
    · rw [if_pos hfull]
      exact if_pos hfull
    · rw [if_neg hfull]
      exact if_neg hfull

end Sys2Proof.Machine
end

section
/-! SCAN_LINES: its ranges and its filter, and what the part holds once it was served. -/

namespace Sys2Proof.Machine

open Sys2Proof

/-! ## The ranges and the filter (R138, R140) -/

theorem scanOutOfRange_iff {a : ScanArgs} :
    scanOutOfRange a = true ↔
      a.start.toNat = 0 ∨ 4095 < a.start.toNat ∨ 63 < a.region.toNat ∧ a.region.toNat ≠ 0xFF ∨
        a.states.toNat = 0 ∨ 31 < a.states.toNat ∨ 2 < a.minLevel.toNat ∨ a.maximum.toNat = 0 ∨
        30 < a.maximum.toNat := by
  simp only [scanOutOfRange, Bool.or_eq_true, Bool.and_eq_true, decide_eq_true_eq, or_assoc]
  rfl

/-- A record passes the filter when it passes every term of it. -/
theorem scanMatches_eq (a : ScanArgs) (x : LineRecord) :
    scanMatches a x = decide (
      (a.region.toNat = 0xFF ∨ a.region.toNat = x.region.val) ∧
        a.states.getLsbD x.state.code = true ∧ a.minLevel.toNat ≤ x.level.code ∧
        (a.attentionOnly.getLsbD 0 = true → x.attention = true) ∧
        (a.marginalOnly.getLsbD 0 = true → x.marginal = true)) := by
  rw [Bool.eq_iff_iff, decide_eq_true_iff]
  simp only [scanMatches, yes, Bool.and_eq_true, Bool.or_eq_true, decide_eq_true_eq,
    Bool.not_eq_true', ← Bool.not_eq_true, imp_iff_not_or, and_assoc]

/-! ## The request carried out (R139) -/

theorem carryScanLines_outOfRange {u : RecordUnit} {a : ScanArgs} (h : scanOutOfRange a = true) :
    carryScanLines u a = answer u (.plain .badParameter []) := by
  unfold carryScanLines
  exact if_pos h

/-- The scan of an accepted SCAN_LINES: from its start slot on, with nothing gathered yet. -/
def scanned (u : RecordUnit) (a : ScanArgs) : Scan :=
  scanWalk a (u.records.filter fun r => decide (a.start.toNat ≤ r.slot)) ⟨u, false, [], 0, none⟩

theorem carryScanLines_inRange {u : RecordUnit} {a : ScanArgs} (h : ¬scanOutOfRange a = true) :
    carryScanLines u a =
      ⟨(scanned u a).unit, (scanned u a).attention, .plain .accepted (scanned u a).fields⟩ := by
  unfold carryScanLines
  exact if_neg h

theorem scanned_start (u : RecordUnit) (a : ScanArgs) (g : Grant) (k : Arbiter) :
    scanned (u.start g k) a = (scanned u a).start g k :=
  scanWalk_start a _ ⟨u, false, [], 0, none⟩ g k

theorem scanLines_served {s : State} {a : ScanArgs} (h : Header) (hf : s.portFirst)
    (hin : ¬scanOutOfRange a = true) :
    ∃ t, CarriesOut (.scanLines h a) s t ∧
      Served s t h (.scanLines a) (s.served (scanned s.unit a).unit) (scanned s.unit a).attention
        (.plain .accepted (scanned s.unit a).fields) := by
  have hc := carryScanLines_inRange
    (u := s.unit.start (.command ⟨h, .scanLines a⟩ false) s.afterGrant) hin
  rw [scanned_start] at hc
  exact served_of_carryOut (.scanLines a) hf rfl nofun hc

/-- Settles O41: the scan gathers from the records it visits as their catch-up leaves them, each of
which then stands in its own slot, and how it ends decides the rest, the resume slot and END. -/
theorem scanReportsTheMatchesInOrder : Obligations.ScanReportsTheMatchesInOrder := by
  intro s h a hf htable outOfRange passes entry
  have hpasses : scanMatches a = passes := funext (scanMatches_eq a)
  refine ⟨fun hout => ?refused, fun hin => ?accepted⟩
  case refused =>
    exact served_ungated (.scanLines a) hf rfl nofun fun g k =>
      carryScanLines_outOfRange (u := s.unit.start g k) (scanOutOfRange_iff.2 hout)
  case accepted =>
    have hmax : 0 < a.maximum.toNat := by
      dsimp only [outOfRange] at hin
      omega
    obtain ⟨visited, rest, hl, hg, he⟩ :=
      scanWalk_spec a (s.unit.records.filter fun r => decide (a.start.toNat ≤ r.slot))
        ⟨s.unit, false, [], 0, none⟩ hmax rfl
    obtain ⟨t, hcarried, hserved⟩ := scanLines_served h hf (mt scanOutOfRange_iff.1 hin)
    have hsub : visited.Sublist s.unit.records :=
      (hl ▸ List.sublist_append_left visited rest).trans List.filter_sublist
    have hrise := htable.slots_rise.sublist hsub
    have hlive : ∀ r ∈ visited, (s.unit.recordAt r.slot).isSome := fun r hr => by
      rw [recordAt_of_mem htable.slots_rise (hsub.subset hr)]
      rfl
    refine ⟨visited, rest, t, hl, ?_⟩
    intro u found stop resume
    have hfound : (scanned s.unit a).found = found :=
      hg.found.trans (by rw [← filterMap_recordAt_walked hrise hlive, hpasses]; rfl)
    have hresume : (scanned s.unit a).resume = resume :=
      he.resume_eq (fun r hr => (htable.slots_range r (hsub.subset hr)).1) (by
        dsimp only [stop]
        rw [← hfound]
        rfl)
    have hfields : (scanned s.unit a).fields =
        [u8 found.length, flag (resume == 0), u16 visited.length, u16 resume, u16 0] ++
          (found.map entry).flatten := by
      have hvisited : (scanned s.unit a).visited = visited.length :=
        hg.visited.trans (Nat.zero_add _)
      unfold Scan.fields
      rw [hfound, hresume, hvisited]
      rfl
    have hunit : (scanned s.unit a).unit = u := hg.unit
    have hattention : (scanned s.unit a).attention = walkLatches s.unit visited :=
      hg.attention.trans (Bool.false_or _)
    rw [hunit, hattention, hfields] at hserved
    refine ⟨hfound ▸ he.found_le, fun hshort => ?_, fun hfull => ?_, hcarried, hserved⟩
    · exact he.rest_eq_nil (hfound ▸ hshort)
    · rw [← hpasses]
      exact he.exists_last (hfound ▸ hfull) hrise hlive

end Sys2Proof.Machine
end

section
/-! A request placed in the request block reads back, whatever the block held before: every field of
it stands at its place, so the request the port parses is the request placed (R193). -/

namespace Sys2Proof.Machine

open Sys2Proof

/-! ## Fields that stand at their places -/

/-- A field ends no later than the fields it is placed among. -/
theorem placeAt_add_width_le {offset k : Nat} {fs : List Field} {f : Field} (h : fs[k]? = some f) :
    placeAt offset (fs.map Field.width) k + f.width ≤
      placeAt offset (fs.map Field.width) fs.length := by
  induction fs generalizing offset k with
  | nil => simp at h
  | cons g gs ih =>
    cases k with
    | zero =>
      obtain rfl : g = f := by simpa using h
      exact placeAt_ge _ _ _
    | succ k => exact ih (by simpa using h)

/-- Bytes stored from offset 0 of a block that has room for them read as they were given. -/
theorem leAt_storeBytes {n : Nat} (v : Vector Byte n) {bytes : List Byte} {offset width : Nat}
    (hn : bytes.length ≤ n) (h : offset + width ≤ bytes.length) :
    leAt (storeBytes v 0 bytes).toList offset width = leAt bytes offset width := by
  rw [← leAt_take _ _ _ _ h, storeBytes_take v bytes hn]

/-- Every field of a list, of the widths given, stands in the bytes where its place from offset 0
is. -/
def FieldsStand (l : List Byte) (fs : List Field) (ws : List Nat) : Prop :=
  ∀ (k : Nat) (f : Field), fs[k]? = some f →
    leAt l (placeAt 0 ws k) f.width = f.value % 256 ^ f.width

/-- Fields placed and stored at the front of a block stand there. -/
theorem fieldsStand_storeBytes {n : Nat} (v : Vector Byte n) {fs : List Field} {ws : List Nat}
    (hw : fs.map Field.width = ws) (hn : (placeFields 0 fs).length ≤ n) :
    FieldsStand (storeBytes v 0 (placeFields 0 fs)).toList fs ws := by
  subst hw
  intro k f hf
  have hend := placeAt_add_width_le (offset := 0) hf
  rw [leAt_storeBytes v hn (by rw [placeFields_length]; omega)]
  exact leAt_placeFields (offset := 0) hf

section
variable {l : List Byte} {fs : List Field} {ws : List Nat} (hs : FieldsStand l fs ws)
include hs

/-- A field whose value fits its width reads back. -/
theorem FieldsStand.leAt_eq (k o w : Nat) (b : BitVec (8 * w)) (hf : fs[k]? = some ⟨w, b.toNat⟩)
    (ho : placeAt 0 ws k = o) : leAt l o w = b.toNat := by
  have hfits : b.toNat < 256 ^ w := by
    have hb := b.isLt
    rwa [Nat.pow_mul] at hb
  rw [← ho]
  exact (hs k _ hf).trans (Nat.mod_eq_of_lt hfits)

theorem FieldsStand.byte (k o : Nat) (b : Byte) (hf : fs[k]? = some (u8 b.toNat))
    (ho : placeAt 0 ws k = o) : u8At l o = b :=
  BitVec.eq_of_toNat_eq ((u8At_toNat l o).trans (hs.leAt_eq k o 1 b hf ho))

theorem FieldsStand.half (k o : Nat) (b : Half) (hf : fs[k]? = some (u16 b.toNat))
    (ho : placeAt 0 ws k = o) : u16At l o = b :=
  BitVec.eq_of_toNat_eq ((u16At_toNat l o).trans (hs.leAt_eq k o 2 b hf ho))

theorem FieldsStand.word (k o : Nat) (b : Word) (hf : fs[k]? = some (u32 b.toNat))
    (ho : placeAt 0 ws k = o) : u32At l o = b :=
  BitVec.eq_of_toNat_eq ((u32At_toNat l o).trans (hs.leAt_eq k o 4 b hf ho))

/-- The twelve values of SET_AIMS and ADD_LOT, behind seven fields. -/
theorem FieldsStand.halves (v : Vector Half 12)
    (hf : ∀ i : Fin 12, fs[7 + i.val]? = some (u16 v[i].toNat))
    (hw : ws = [1, 1, 2, 2, 2, 4, 1] ++ List.replicate 12 2) : halvesAt l 14 = v := by
  have ho : ∀ i : Fin 12, placeAt 0 ws (7 + i.val) = 14 + 2 * i.val := by
    rw [hw]
    decide
  ext1 i hi
  exact (build12_getElem _ ⟨i, hi⟩).trans (hs.half _ _ _ (hf ⟨i, hi⟩) (ho ⟨i, hi⟩))

/-- The limits of one quantity in WRITE_PROFILE: five fields from the field `k`. -/
theorem FieldsStand.limits (k o : Nat) (v : LimitArgs)
    (hf : (fs.drop k).take 5 = limitArgFields v)
    (ho : (List.range 5).map (fun i => placeAt 0 ws (k + i)) = [o, o + 2, o + 4, o + 6, o + 8]) :
    limitArgsAt l o = v := by
  have field : ∀ (i : Nat) (b : Half), i < 5 → (limitArgFields v)[i]? = some (u16 b.toNat) →
      u16At l (o + 2 * i) = b := fun i b hi hb => by
    refine hs.half (k + i) _ b ?_ (by interval_cases i <;> simp_all [List.range_succ])
    rwa [← hf, List.getElem?_take_of_lt hi, List.getElem?_drop] at hb
  show LimitArgs.mk (u16At l (o + 2 * 0)) (u16At l (o + 2 * 1)) (u16At l (o + 2 * 2))
    (u16At l (o + 2 * 3)) (u16At l (o + 2 * 4)) = v
  rw [field 0 v.w (by decide) rfl, field 1 v.a (by decide) rfl, field 2 v.k (by decide) rfl,
    field 3 v.h (by decide) rfl, field 4 v.tolerance (by decide) rfl]

end

/-! ## The request placed (R193) -/

/-- The fields of a request in the order they are placed: the header's five, then its parameters. -/
def requestFields (h : Header) (op : PortOp) : List Field :=
  u8 (portOpCode op).toNat :: u8 h.flags.toNat :: u16 h.tag.toNat :: u16 h.version.toNat ::
    u16 0 :: portOpFields op

theorem encodeRequest_eq (h : Header) (op : PortOp) :
    encodeRequest h op = placeFields 0 (requestFields h op) := rfl

/-- The widths of a request's parameters (R193). The last group has a key alone, or READ_LOT's lot
and entry. -/
def parameterWidths : PortOp → List Nat
  | .unit (.createLine _) => [4, 1, 1, 1, 1, 4]
  | .unit (.moveLine _) => [4, 1, 1]
  | .unit (.setLineProfile _) => [4, 1, 1]
  | .unit (.setAims _) => 4 :: 1 :: List.replicate 12 2
  | .unit (.setLineLot _) => [4, 1, 4]
  | .unit (.startCrossover _) => [4, 1, 4]
  | .unit (.submitReading _) => List.replicate 48 1
  | .unit (.writeProfile _) => List.replicate 7 1 ++ List.replicate 20 2
  | .unit (.addLot _) => 4 :: 1 :: List.replicate 12 2
  | .unit (.withdrawLot _) => [4]
  | .unit (.removeLot _) => [4]
  | .unit (.setRegionHold _) => [1, 1]
  | .unit (.closeDay _) => [2]
  | .unit (.scanLines _) => [2, 1, 1, 1, 1, 1, 1]
  | .unit (.readProfile _) => [1]
  | .unit (.readRegion _) => [1]
  | .unit (.startSurvey _) => [1]
  | .openConfig _ => [2]
  | .unit .freezeProfiles => []
  | .unit .regionPoll => []
  | .unit .stopSurvey => []
  | .closeConfig => []
  | .unknown _ => []
  | .unit _ => [4, 1]

theorem portOpFields_widths (op : PortOp) :
    (portOpFields op).map Field.width = parameterWidths op := by
  rcases op with op | _ | _ | _
  · cases op
    case submitReading raw =>
      refine List.eq_replicate_iff.2 ⟨by simp [portOpFields, unitOpFields], ?_⟩
      simp [portOpFields, unitOpFields, u8]
    all_goals rfl
  all_goals rfl

/-- The widths of a whole request. -/
def requestWidths (op : PortOp) : List Nat := 1 :: 1 :: 2 :: 2 :: 2 :: parameterWidths op

theorem requestFields_widths (h : Header) (op : PortOp) :
    (requestFields h op).map Field.width = requestWidths op :=
  congrArg (fun ws => 1 :: 1 :: 2 :: 2 :: 2 :: ws) (portOpFields_widths op)

/-- Every request fits the request block. -/
theorem encodeRequest_length_le (h : Header) (op : PortOp) : (encodeRequest h op).length ≤ 64 := by
  rw [encodeRequest_eq, placeFields_length, ← List.length_map (f := Field.width),
    requestFields_widths]
  rcases op with op | _ | _ | _
  · cases op <;> exact Nat.le_of_ble_eq_true rfl
  all_goals exact Nat.le_of_ble_eq_true rfl

/-- Fields placed behind others begin where those end. -/
theorem placeFields_append (offset : Nat) (fs gs : List Field) :
    placeFields offset (fs ++ gs) =
      placeFields offset fs ++
        placeFields (placeAt offset (fs.map Field.width) fs.length) gs := by
  induction fs generalizing offset with
  | nil => rfl
  | cons f fs ih =>
    rw [List.cons_append, placeFields_cons, placeFields_cons, ih, ← List.append_assoc]
    rfl

/-- Bytes placed as fields of one byte each are the bytes. -/
theorem placeFields_bytes (offset : Nat) (bytes : List Byte) :
    placeFields offset (bytes.map fun b => u8 b.toNat) = bytes := by
  induction bytes generalizing offset with
  | nil => rfl
  | cons b bs ih => simp [placeFields, u8, bytesLE, Nat.mod_one] at ih ⊢; exact ih _

/-- A SUBMIT_READING is its 8-byte header and then the 48 bytes of the reading. -/
theorem encodeRequest_submitReading (h : Header) (raw : RawReading) :
    encodeRequest h (.unit (.submitReading raw)) =
      encodeRequest h (.unknown 0x0D) ++ raw.toList := by
  refine (placeFields_append 0 (requestFields h (.unknown 0x0D)) _).trans ?_
  exact congrArg _ (placeFields_bytes _ _)

theorem encodeRequest_unknown_length (h : Header) (code : Byte) :
    (encodeRequest h (.unknown code)).length = 8 := by
  rw [encodeRequest_eq, placeFields_length, ← List.length_map (f := Field.width),
    requestFields_widths]
  rfl

section
variable (block : Vector Byte 64) (h : Header)

/-- The fields of a request placed stand in the request block, whatever it held before. -/
theorem requestFields_stand (op : PortOp) :
    FieldsStand (storeBytes block 0 (encodeRequest h op)).toList (requestFields h op)
      (requestWidths op) :=
  fieldsStand_storeBytes block (requestFields_widths h op) (encodeRequest_length_le h op)

/-- The header of a request placed reads back. -/
theorem parseHeader_placed (op : PortOp) :
    parseHeader (storeBytes block 0 (encodeRequest h op)).toList = h := by
  have hs := requestFields_stand block h op
  unfold parseHeader
  rw [hs.byte 1 1 h.flags rfl rfl, hs.half 2 2 h.tag rfl rfl, hs.half 3 4 h.version rfl rfl]

theorem code_placed (op : PortOp) :
    u8At (storeBytes block 0 (encodeRequest h op)).toList 0 = portOpCode op :=
  (requestFields_stand block h op).byte 0 0 _ rfl rfl

/-- The 48 bytes of a reading placed are read back. -/
theorem rawReading_placed (raw : RawReading) :
    rawReadingOf
      ((storeBytes block 0 (encodeRequest h (.unit (.submitReading raw)))).toList.drop 8) =
      raw := by
  have hfits := encodeRequest_length_le h (.unit (.submitReading raw))
  have hfront := storeBytes_take block _ hfits
  rw [encodeRequest_submitReading] at hfront ⊢
  have hbytes := congrArg (List.drop 8) hfront
  rw [List.drop_left' (encodeRequest_unknown_length h _), List.length_append,
    encodeRequest_unknown_length, Vector.length_toList, List.drop_take] at hbytes
  apply Vector.toList_inj.1
  unfold rawReadingOf
  rw [hbytes, blockOf_toList, List.take_left' (by simp)]

/-- A code of no request is taken as it stands. -/
theorem parseOp_unknown {l : List Byte} (hc : u8At l 0 ∉ knownCodes) :
    parseOp l = .unknown (u8At l 0) := by
  simp only [knownCodes, List.mem_cons, List.not_mem_nil, or_false, not_or] at hc
  simp only [parseOp, hc, if_false]

/-- The request of the Record Unit that the block holds once one is placed is the one placed. -/
theorem parseOp_placed_unit (op : UnitOp) :
    parseOp (storeBytes block 0 (encodeRequest h (.unit op))).toList = .unit op := by
  have hs := requestFields_stand block h (.unit op)
  have hraw := rawReading_placed block h
  have hcode := code_placed block h (.unit op)
  generalize hl : storeBytes block 0 (encodeRequest h (.unit op)) = v at hs hcode
  cases op <;> simp only [portOpCode, unitOpCode] at hcode <;>
    simp only [parseOp, keyArgsAt, lineLotArgsAt, hcode, BitVec.reduceEq, reduceIte]
  case createLine a =>
    rw [hs.word 5 8 a.site rfl rfl, hs.byte 6 12 a.line rfl rfl, hs.byte 7 13 a.region rfl rfl,
      hs.byte 8 14 a.kind rfl rfl, hs.byte 9 15 a.profile rfl rfl, hs.word 10 16 a.lot rfl rfl]
  case moveLine a =>
    rw [hs.word 5 8 a.site rfl rfl, hs.byte 6 12 a.line rfl rfl, hs.byte 7 13 a.region rfl rfl]
  case setLineProfile a =>
    rw [hs.word 5 8 a.site rfl rfl, hs.byte 6 12 a.line rfl rfl, hs.byte 7 13 a.profile rfl rfl]
  case setAims a =>
    rw [hs.word 5 8 a.site rfl rfl, hs.byte 6 12 a.line rfl rfl,
      hs.halves a.aims (fun i => by fin_cases i <;> rfl) rfl]
  case addLot a =>
    rw [hs.word 5 8 a.lot rfl rfl, hs.byte 6 12 a.kind rfl rfl,
      hs.halves a.offsets (fun i => by fin_cases i <;> rfl) rfl]
  case setLineLot a | startCrossover a =>
    rw [hs.word 5 8 a.site rfl rfl, hs.byte 6 12 a.line rfl rfl, hs.word 7 16 a.lot rfl rfl]
  case submitReading raw => rw [← hl, hraw raw]
  case writeProfile a =>
    have hlimits : #v[limitArgsAt v.toList 16, limitArgsAt v.toList 26, limitArgsAt v.toList 36,
        limitArgsAt v.toList 46] = a.limits := by
      rw [hs.limits 12 16 a.limits[0] rfl rfl, hs.limits 17 26 a.limits[1] rfl rfl,
        hs.limits 22 36 a.limits[2] rfl rfl, hs.limits 27 46 a.limits[3] rfl rfl]
      ext1 q hq
      interval_cases q <;> rfl
    rw [hlimits, hs.byte 5 8 a.profile rfl rfl, hs.byte 6 9 a.kind rfl rfl,
      hs.byte 7 10 a.runLimit rfl rfl, hs.byte 8 11 a.baselineCount rfl rfl,
      hs.byte 9 12 a.stripInterval rfl rfl, hs.byte 10 13 a.lapseLimit rfl rfl,
      hs.byte 11 14 a.crossoverPairs rfl rfl]
  case readProfile b | readRegion b | startSurvey b => rw [hs.byte 5 8 b rfl rfl]
  case withdrawLot lot | removeLot lot => rw [hs.word 5 8 lot rfl rfl]
  case setRegionHold a => rw [hs.byte 5 8 a.region rfl rfl, hs.byte 6 9 a.mode rfl rfl]
  case closeDay day => rw [hs.half 5 8 day rfl rfl]
  case scanLines a =>
    rw [hs.half 5 8 a.start rfl rfl, hs.byte 6 10 a.region rfl rfl, hs.byte 7 11 a.states rfl rfl,
      hs.byte 8 12 a.minLevel rfl rfl, hs.byte 9 13 a.attentionOnly rfl rfl,
      hs.byte 10 14 a.marginalOnly rfl rfl, hs.byte 11 15 a.maximum rfl rfl]
  case readLot a => rw [hs.word 5 8 a.lot rfl rfl, hs.byte 6 12 a.entry rfl rfl]
  case readLine a | retireLine a | cancelCrossover a | acknowledge a | clearDrift a | reinstate a =>
    rw [hs.word 5 8 a.site rfl rfl, hs.byte 6 12 a.line rfl rfl]

/-- The request the block holds once one is placed is the one placed, where an unknown code is no
code of the catalogue. -/
theorem parseOp_placed (op : PortOp) (hk : ∀ code, op = .unknown code → code ∉ knownCodes) :
    parseOp (storeBytes block 0 (encodeRequest h op)).toList = op := by
  have hcode := code_placed block h op
  cases op with
  | unit op => exact parseOp_placed_unit block h op
  | openConfig key =>
    have hkey := (requestFields_stand block h (.openConfig key)).half 5 8 key rfl rfl
    simp only [portOpCode] at hcode
    simp only [parseOp, hcode, hkey, BitVec.reduceEq, reduceIte]
  | closeConfig =>
    simp only [portOpCode] at hcode
    simp only [parseOp, hcode, BitVec.reduceEq, reduceIte]
  | unknown code =>
    have hnew : u8At (storeBytes block 0 (encodeRequest h (.unknown code))).toList 0 ∉ knownCodes :=
      hcode ▸ hk code rfl
    rw [parseOp_unknown hnew, hcode]
    rfl

end

end Sys2Proof.Machine
end

section
/-! The Command Port by itself: what it answers at the taking, a GO while BUSY, the gate, the
completion of a request and the port reset. -/

namespace Sys2Proof.Machine

open Sys2Proof

/-! ## A GO on the block (R150, R151) -/

/-- A GO with a request placed in the block offers that request. -/
theorem pressGo_placed {s : State} {block : Vector Byte 64} {h : Header} {op : PortOp}
    (hb : s.port.requestBlock = storeBytes block 0 (encodeRequest h op))
    (hk : ∀ code, op = .unknown code → code ∉ knownCodes) : pressGo s = offerRequest h op s := by
  unfold pressGo
  dsimp only
  rw [hb, parseHeader_placed, parseOp_placed _ _ _ hk]

theorem exec_unknownCommand (h : Header) (code : Byte) (s : State) :
    exec (.unknownCommand h code) s =
      event s fun s => pressGo (placeRequest h (.unknown code) s) := rfl

/-- The row of a request is the request issued, an unknown code being none of the catalogue. -/
theorem exec_portRowOf {s : State} {h : Header} {op : PortOp}
    (hk : ∀ code, op = .unknown code → code ∉ knownCodes) :
    exec (portRowOf h op) s = issue h op s := by
  cases op with
  | unit op => exact exec_rowOf h op s
  | openConfig key => rfl
  | closeConfig => rfl
  | unknown code =>
    have hgo : (fun s : State => pressGo (placeRequest h (.unknown code) s)) =
        fun s => offerRequest h (.unknown code) (placeRequest h (.unknown code) s) :=
      funext fun s => pressGo_placed (block := s.port.requestBlock) rfl hk
    exact (exec_unknownCommand h code s).trans (congrArg (event s) hgo)

/-- The state with OVERRUN as given. -/
def State.withOverrun (s : State) (b : Bool) : State :=
  { s with port := { s.port with overrun := b } }

/-- An event outside cold reset that moves no source and no enable. -/
theorem event_quiet {s t : State} {f : State → State} (hc : s.inColdReset = false) (hf : f s = t)
    (hq : s.intOutput = t.intOutput) : event s f = .next t := by
  rw [event_live hc, hf, settle_quiet hq]

/-- A GO while BUSY sets OVERRUN and nothing else, whatever the block holds (R151). -/
theorem pressGo_busy {s : State} (hb : s.port.phase ≠ .idle) : pressGo s = s.withOverrun true :=
  offerRequest_busy hb

/-- A request row while BUSY writes the block and sets OVERRUN (R151), with an unknown code of any
value too. -/
theorem exec_portRowOf_busy {s : State} (h : Header) (op : PortOp) (hc : s.inColdReset = false)
    (hb : s.port.phase ≠ .idle) :
    exec (portRowOf h op) s = .next ((placeRequest h op s).withOverrun true) := by
  have offered : issue h op s = .next ((placeRequest h op s).withOverrun true) :=
    event_quiet hc (offerRequest_busy (s := placeRequest h op s) hb) rfl
  cases op with
  | unit op => exact (exec_rowOf h op s).trans offered
  | openConfig key => exact offered
  | closeConfig => exact offered
  | unknown code =>
    exact (exec_unknownCommand h code s).trans
      (event_quiet hc (pressGo_busy (s := placeRequest h _ s) hb) rfl)

theorem exec_overrunClear (go : Bool) (s : State) :
    exec (.overrunClear go) s =
      event s fun s => if go then pressGo (s.withOverrun false) else s.withOverrun false := rfl

/-- OVERRUN_CLEAR with a GO: the GO finds OVERRUN clear (R151). -/
theorem exec_overrunClear_go {s : State} (hc : s.inColdReset = false) :
    exec (.overrunClear true) s = .next (settle s (pressGo (s.withOverrun false))) := by
  rw [exec_overrunClear, event_live hc, if_pos rfl]

/-- Settles O8: the general lemma for a request presented, of which this is the statement. -/
theorem requestIsTakenAndWaits : Obligations.RequestIsTakenAndWaits :=
  fun _ _ _ hs hi hp => exec_rowOf_presented hs hi hp

/-- Settles O9: BUSY, a GO never reads the block; IDLE, the GO after the clearing finds the request
that the row would place again. -/
theorem busyGoIsIgnoredWithOverrun : Obligations.BusyGoIsIgnoredWithOverrun := by
  intro s hc
  refine ⟨fun h op hb => exec_portRowOf_busy h op hc hb, ?clear, fun hb => ?clearBusy,
    fun h op block hi hk hblock => ?clearIdle⟩
  case clear => exact (exec_overrunClear false s).trans (event_quiet hc rfl rfl)
  case clearBusy =>
    rw [exec_overrunClear_go hc, pressGo_busy (s := s.withOverrun false) hb, settle_quiet (by rfl)]
    rfl
  case clearIdle =>
    have hplaced : placeRequest h op (s.withOverrun false) = s.withOverrun false := by
      simp only [placeRequest, State.withOverrun, hblock, storeBytes_idem]
    have hissue : issue h op (s.withOverrun false) =
        .next (settle (s.withOverrun false) (offerRequest h op (s.withOverrun false))) := by
      unfold issue
      rw [event_live (s := s.withOverrun false) hc, hplaced]
    rw [exec_overrunClear_go hc, pressGo_placed (s := s.withOverrun false) hblock hk]
    exact ((exec_portRowOf hk).trans hissue).symm

/-! ## Requests answered at the taking (R150, R154, R158, R160) -/

/-- While INITIALISING every request is answered NOT_READY (R150 step 2). -/
theorem takeRequest_notReady {s : State} (h : Header) (op : PortOp)
    (hr : s.readiness = .initialising) :
    takeRequest h op s = respond (portOpCode op) h.tag (.plain .notReady (portRefusal op)) s := by
  unfold takeRequest
  exact if_pos hr

theorem takeRequest_unknown {s : State} (h : Header) (code : Byte) (hr : s.readiness = .ready) :
    takeRequest h (.unknown code) s =
      respond code h.tag (.plain .unknownCommand []) { s with gate := gateAfterOther s.gate } := by
  unfold takeRequest
  exact if_neg (by simp [hr])

theorem takeRequest_openConfig {s : State} (h : Header) (key : Half) (hr : s.readiness = .ready) :
    takeRequest h (.openConfig key) s =
      respond 0x60 h.tag
        (.plain (gateAfterKey s.gate key).2 [u8 (gateAfterKey s.gate key).1.code])
        { s with gate := (gateAfterKey s.gate key).1 } := by
  unfold takeRequest
  exact if_neg (by simp [hr])

theorem takeRequest_closeConfig {s : State} (h : Header) (hr : s.readiness = .ready) :
    takeRequest h .closeConfig s =
      respond 0x61 h.tag (.plain .accepted [u8 Gate.closed.code]) { s with gate := .closed } := by
  unfold takeRequest
  exact if_neg (by simp [hr])

/-- The gate after a key, by the table of R158. -/
theorem gateAfterKey_eq (g : Gate) (key : Half) :
    gateAfterKey g key =
      if key = (if g = .key1Seen then 0x2E97 else 0x4D31) then
        (if g = .key1Seen then .opened else .key1Seen, .accepted)
      else (.closed, .keyRejected) := by
  cases g <;> rfl

/-- Settles O10: the refusal comes before the gate is looked at. -/
theorem initialisingAnswersNotReady : Obligations.InitialisingAnswersNotReady := by
  intro s h op hc hr hi hk
  rw [exec_portRowOf hk]
  have answered := issue_answered hc hi (takeRequest_notReady (s := placeRequest h op s) h op hr)
  rcases op with op | _ | _ | _
  · cases op <;> exact answered
  all_goals exact answered

/-- Settles O11: the block holds the unknown code itself, since no code of the catalogue is read
there. -/
theorem unknownCodeIsAnswered : Obligations.UnknownCodeIsAnswered := by
  intro s h code hs hi hk
  obtain ⟨hc, hr⟩ := hs
  have hgate : (if s.gate = .key1Seen then .closed else s.gate) = gateAfterOther s.gate := by
    cases s.gate <;> rfl
  rw [hgate, show Instr.unknownCommand h code = portRowOf h (.unknown code) from rfl,
    exec_portRowOf fun c hop => by cases hop; exact hk]
  exact issue_answered hc hi (takeRequest_unknown (s := placeRequest _ _ s) h code hr)

/-- Settles O12: the gate's two requests, and the table of R158 state by state. -/
theorem gateFollowsItsKeys : Obligations.GateFollowsItsKeys := by
  intro s h hs hi
  obtain ⟨hc, hr⟩ := hs
  refine ⟨fun key => ?_, ?_⟩
  · obtain ⟨t, he, ha⟩ :=
      issue_answered hc hi (takeRequest_openConfig (s := placeRequest _ _ s) h key hr)
    refine ⟨t, he, (gateAfterKey s.gate key).1, (gateAfterKey s.gate key).2, ?_, ?_⟩
    · rw [placeRequest_gate] at ha
      generalize (gateAfterKey s.gate key).1 = g at ha ⊢
      cases g <;> exact ha
    · rw [gateAfterKey_eq]
      refine ⟨fun hg hkey => ?_, fun hg hkey => ?_, fun hg hkey => ?_, fun hg hkey => ?_⟩ <;>
        simp only [hg, hkey, reduceIte, and_self]
  · exact issue_answered hc hi (takeRequest_closeConfig (s := placeRequest _ _ s) h hr)

/-! ## Completion (R152, R155) -/

theorem latchAttention_status (s : State) (passed : Bool) :
    (s.latchAttention passed).bus.status =
      s.bus.status ||| if passed then Source.attention.mask else 0 := by
  cases passed <;> simp

/-- COMMAND_DONE is no part of what ATTENTION latches. -/
theorem latched_commandDone_latchAttention (s : State) (passed : Bool) :
    (s.latchAttention passed).latched .commandDone = s.latched .commandDone := by
  unfold State.latched
  rw [latchAttention_status, BitVec.getLsbD_or]
  cases passed <;> simp [Source.mask, Source.bit]

/-- An event that issues nothing and keeps the link settings announces what it latched. -/
theorem announced_settle {s t : State} (ho : t.bus.outbound = s.bus.outbound)
    (hm : t.bus.msiEnabled = s.bus.msiEnabled) (hb : t.bus.busMaster = s.bus.busMaster)
    (ha : t.bus.msiAddress = s.bus.msiAddress) (hd : t.bus.msiData = s.bus.msiData) :
    Announced s (settle s t) := by
  unfold Announced
  rw [settle_bus_outbound, settle_intOutput, ho, hm, hb, ha, hd]

/-- Settles O15: where the fields of a response stand is a matter of the block alone, and the
completion is the request's effects followed by the response, unless discarded. -/
theorem completionAnswersUnlessDiscarded : Obligations.CompletionAnswersUnlessDiscarded := by
  refine ⟨responseOf_showsResponse, carryOut_fits, fun s req hc => ⟨fun hp => ?_, fun hp => ?_⟩⟩
  all_goals refine ⟨_, (event_live hc : exec .commandComplete s = _), ?_⟩
  · rw [completeCommand_answered hp]
    refine ⟨by simp, by simp, by simp, by simp, ?_, ?_, announced_settle ?_ ?_ ?_ ?_ ?_, by simp,
      by simp, by simp, by simpa using hc, by simp, by simp⟩
    · rw [settle_port]
      exact responseOf_showsResponse _ _ _ (carryOut_fits _ _)
    · rw [settle_bus_status, respond_bus_status, latchAttention_status]
    all_goals simp
  · rw [completeCommand_discarded hp]
    refine ⟨by simp, by simp, by simp, by simp, ?_, ?_, announced_settle ?_ ?_ ?_ ?_ ?_, by simp,
      by simp⟩
    · rw [settle_bus_status, latchAttention_status]
    · have := latched_commandDone_latchAttention
        { s with unit := { (carryOut s.unit req).unit with inProgress := none } }
        (carryOut s.unit req).attention
      unfold State.latched at this ⊢
      rw [settle_bus_status]
      exact this
    all_goals simp

/-! ## Port reset (R155, R178, R188) -/

/-- What had left the link when a reset discards the rest is some first part of it (log 5). -/
theorem discardOutbound_sent (s : State) :
    ∃ n, s.discardOutbound.bus.sent = s.bus.sent ++ s.bus.outbound.take n := by
  unfold State.discardOutbound
  split
  · exact ⟨0, by simp⟩
  · exact ⟨_, rfl⟩

/-- With no source latched the interrupt output is not asserted. -/
theorem portReset_intOutput (s : State) : (portReset s).intOutput = false := by
  simp [portReset, State.intOutput, BusLink.output]

/-- A port reset asserts no interrupt output, so it sends no message. -/
theorem exec_portReset {s : State} (cause : PortResetCause) (hc : s.inColdReset = false) :
    exec (.portReset cause) s = .next (portReset s) := by
  have hquiet : settle s (portReset s) = portReset s := by
    unfold settle
    rw [portReset_intOutput, if_neg (by simp)]
  exact (event_live hc).trans (congrArg _ hquiet)

/-- Settles O6: the reset ends with no source latched, so no message hides what it discarded. -/
theorem portResetLeavesTheRecordUnit : Obligations.PortResetLeavesTheRecordUnit := by
  intro s cause hc
  have hprogress : (portReset s).unit.inProgress = s.unit.inProgress.map Grant.discard := by
    simp [portReset]
  refine ⟨portReset s, exec_portReset cause hc, by simp [portReset, CommandPort.portReset], rfl,
    rfl, rfl, rfl, portReset_intOutput s, by simp [portReset], discardOutbound_sent s,
    by simp [portReset], by simp [portReset], fun req d hp => ?_, fun data d hp => ?_, fun hp => ?_,
    fun hp => ?_, fun hp => ?_, by simp [portReset]⟩
  all_goals
    rw [hprogress, hp]
    rfl

end Sys2Proof.Machine
end

section
/-! Writes to the register window: the place a write falls on, and one write to a control word that
carries several actions against those actions one by one. -/

namespace Sys2Proof.Machine

open Sys2Proof

/-! ## Several actions within one event (R166, R184; log 9)

An action of the batch control word neither reads what has been issued nor clears a source. So the
one message of an event may as well go out behind the first of its actions that raises the output. -/

/-- The state with items issued behind everything issued before. -/
def State.issued (s : State) (items : List LinkItem) : State :=
  { s with bus := { s.bus with outbound := s.bus.outbound ++ items } }

/-- An action of the engine that does not see the outward traffic and clears no source. -/
structure BlindAction (f : State → State) : Prop where
  acts : ∀ s, OnlyBatch s (f s)
  issued : ∀ s items, f (s.issued items) = (f s).issued items
  latches : ∀ s, ∃ m, (f s).bus.status = s.bus.status ||| m

@[simp] theorem issued_engine (s : State) (items : List LinkItem) :
    (s.issued items).engine = s.engine := rfl

@[simp] theorem mapEngine_issued (s : State) (f : BatchEngine → BatchEngine)
    (items : List LinkItem) : (s.issued items).mapEngine f = (s.mapEngine f).issued items := rfl

@[simp] theorem latch_issued (s : State) (src : Source) (items : List LinkItem) :
    (s.issued items).latch src = (s.latch src).issued items := rfl

theorem issueFetch_issued (s : State) (items : List LinkItem) :
    (s.issued items).issueFetch = s.issueFetch.issued items := by
  unfold State.issueFetch
  rw [issued_engine]
  cases s.engine.front <;> rfl

theorem promote_issued (s : State) (items : List LinkItem) :
    (s.issued items).promote = s.promote.issued items := by
  rw [promote_eq, promote_eq]
  rfl

theorem endBatch_issued (s : State) (cause : EndCause) (items : List LinkItem) :
    (s.issued items).endBatch cause = (s.endBatch cause).issued items := by
  unfold State.endBatch
  rw [issued_engine]
  cases s.engine.front with
  | none => rfl
  | some f =>
    dsimp only
    split
    · rw [mapEngine_issued, latch_issued, promote_issued]
    · rfl

theorem issueFetch_status (s : State) : s.issueFetch.bus.status = s.bus.status := by
  unfold State.issueFetch
  split <;> rfl

theorem endBatch_latches (s : State) (cause : EndCause) :
    ∃ m, (s.endBatch cause).bus.status = s.bus.status ||| m := by
  unfold State.endBatch
  split
  · exact ⟨0, by simp⟩
  · dsimp only
    split
    · rw [promote_eq]
      exact ⟨Source.batchEnd.mask ||| Source.nextTaken.mask, by simp [BitVec.or_assoc]⟩
    · exact ⟨Source.batchEnd.mask, by simp⟩

theorem blind_mapEngine (f : BatchEngine → BatchEngine) :
    BlindAction fun s => s.mapEngine f where
  acts s := onlyBatch_mapEngine s f
  issued _ _ := rfl
  latches _ := ⟨0, by simp⟩

theorem blind_id : BlindAction fun s => s where
  acts := OnlyBatch.refl
  issued _ _ := rfl
  latches _ := ⟨0, by simp⟩

theorem BlindAction.comp {f g : State → State} (hg : BlindAction g) (hf : BlindAction f) :
    BlindAction fun s => g (f s) where
  acts s := (hf.acts s).trans (hg.acts (f s))
  issued s items := by rw [hf.issued, hg.issued]
  latches s := by
    obtain ⟨m, hm⟩ := hf.latches s
    obtain ⟨n, hn⟩ := hg.latches (f s)
    exact ⟨m ||| n, by rw [hn, hm, BitVec.or_assoc]⟩

theorem blind_abortBatch : BlindAction abortBatch where
  acts s := (BatchActs.aborted s).onlyBatch
  issued s items := by
    unfold abortBatch
    rw [issued_engine]
    cases s.engine.phase with
    | idle => rfl
    | paused => exact endBatch_issued ..
    | running =>
      dsimp only
      split
      · rfl
      · split
        · rfl
        · exact endBatch_issued ..
  latches s := by
    unfold abortBatch
    split
    · exact ⟨0, by simp⟩
    · exact endBatch_latches ..
    · split
      · exact ⟨0, by simp⟩
      · split
        · exact ⟨0, by simp⟩
        · exact endBatch_latches ..

theorem blind_pauseBatch : BlindAction pauseBatch where
  acts s := (BatchActs.paused s).onlyBatch
  issued s items := by
    unfold pauseBatch
    rw [issued_engine]
    split <;> rfl
  latches s := by
    unfold pauseBatch
    split <;> exact ⟨0, by simp⟩

theorem blind_resumeBatch : BlindAction resumeBatch where
  acts s := (BatchActs.resumed s).onlyBatch
  issued s items := by
    unfold resumeBatch
    rw [issued_engine]
    cases s.engine.phase with
    | paused =>
      dsimp only
      rw [mapEngine_issued, issueFetch_issued]
    | idle => rfl
    | running => rfl
  latches s := by
    unfold resumeBatch
    split
    · exact ⟨0, by simp⟩
    · exact ⟨0, by rw [issueFetch_status]; simp⟩
    · exact ⟨0, by simp⟩

theorem blind_armNext : BlindAction armNext where
  acts s := (BatchActs.armed s).onlyBatch
  issued s items := by
    have hr : armIsRefused (s.issued items) = armIsRefused s := rfl
    unfold armNext
    rw [hr]
    cases armIsRefused s with
    | true => rfl
    | false =>
      by_cases hi : s.engine.phase = .idle
      · simp only [Bool.false_eq_true, if_false, mapEngine_issued, issued_engine,
          State.mapEngine_engine, hi, if_true, promote_issued]
      · simp only [Bool.false_eq_true, if_false, mapEngine_issued, issued_engine,
          State.mapEngine_engine, hi]
  latches s := by
    unfold armNext
    split
    · exact ⟨0, by simp⟩
    · dsimp only
      split
      · exact ⟨Source.nextTaken.mask, by rw [promote_eq]; simp⟩
      · exact ⟨0, by simp⟩

/-- An action taken where its bit is written as 1. -/
def actIf (bit : Bool) (f : State → State) (s : State) : State := if bit then f s else s

theorem BlindAction.actIf {f : State → State} (hf : BlindAction f) (bit : Bool) :
    BlindAction (actIf bit f) := by
  cases bit
  · exact blind_id
  · exact hf

section
variable {f : State → State} (hf : BlindAction f)
include hf

/-- No such action takes the output back. -/
theorem BlindAction.output_stays (s : State) (h : s.intOutput = true) : (f s).intOutput = true := by
  obtain ⟨m, hm⟩ := hf.latches s
  have hout : ∀ status enable more : BitVec 7, (status &&& enable != 0) = true →
      ((status ||| more) &&& enable != 0) = true := by
    intro status enable more hs
    simp only [bne_iff_ne, ne_eq] at hs ⊢
    refine fun hz => hs ?_
    ext i hi
    have hbit := congrArg (fun w : BitVec 7 => w[i]) hz
    simp only [BitVec.getElem_and, BitVec.getElem_or] at hbit ⊢
    cases he : enable[i] <;> simp_all
  unfold State.intOutput BusLink.output at *
  rw [hm, (hf.acts s).enable]
  exact hout _ _ _ h

/-- The message of an event goes out the same whether the event ends before a further action or
behind it. -/
theorem BlindAction.settle_settle {s m : State} (hm : s.intOutput = true → m.intOutput = true) :
    settle (settle s m) (f (settle s m)) = settle s (f m) := by
  obtain ⟨hmaster, hmsi, haddress, hdata⟩ := (hf.acts m).settings
  by_cases hpass : (!s.intOutput && m.intOutput && m.bus.msiEnabled && m.bus.busMaster) = true
  · have hsent : settle s m = m.issued [.message m.bus.msiAddress m.bus.msiData] := if_pos hpass
    simp only [Bool.and_eq_true, Bool.not_eq_true'] at hpass
    obtain ⟨⟨⟨hs, hout⟩, hmsi'⟩, hmaster'⟩ := hpass
    have hstays := hf.output_stays m hout
    have hlate : settle s (f m) = (f m).issued [.message m.bus.msiAddress m.bus.msiData] := by
      unfold settle
      rw [hs, hstays, hmsi, hmaster, hmsi', hmaster', haddress, hdata]
      rfl
    rw [hlate, hsent, hf.issued]
    exact settle_quiet (hout.trans hstays.symm)
  · have hquiet : settle s m = m := if_neg hpass
    rw [hquiet]
    unfold settle
    rw [hmsi, hmaster]
    cases hs : s.intOutput <;> cases hout : m.intOutput <;> simp_all

/-- One action of a write that carries several: an event of its own behind those before it. -/
theorem BlindAction.actsOn {bit : Bool} {c : Instr} {s m : State} (hc : m.inColdReset = false)
    (hexec : ∀ t, exec c t = event t f) (hm : s.intOutput = true → m.intOutput = true) :
    ActsOn bit c (settle s m) (settle s (Machine.actIf bit f m)) := by
  unfold ActsOn Machine.actIf
  cases bit
  · rfl
  · rw [if_pos rfl, if_pos rfl, hexec, event_live (by simpa using hc), hf.settle_settle hm]

end

/-! ## Where a write falls (R179, R180) -/

theorem exec_registerWrite (offset : Nat) (bytes : List Byte) (s : State) :
    exec (.registerWrite offset bytes) s = event s (windowWrite offset bytes) := rfl

/-- The block after a write: the bytes that fall in it are stored (R180). -/
theorem writeRequestBytes_getElem (offset : Nat) (bytes : List Byte) (s : State) (i : Fin 64) :
    (writeRequestBytes offset bytes s).port.requestBlock[i] =
      if h : offset ≤ 0x080 + i.val ∧ 0x080 + i.val - offset < bytes.length then
        bytes[0x080 + i.val - offset]'h.2
      else s.port.requestBlock[i] := by
  have hi := i.isLt
  show (writeRequestBytes offset bytes s).port.requestBlock[i.val] = _
  unfold writeRequestBytes requestBase
  dsimp only
  by_cases hle : 0x080 ≤ offset
  · rw [if_pos hle, storeBytes_getElem _ _ _ _ hi]
    have hplace : i.val - (offset - 0x080) = 0x080 + i.val - offset := by omega
    have hiff : (offset - 0x080 ≤ i.val ∧ i.val - (offset - 0x080) < bytes.length) ↔
        offset ≤ 0x080 + i.val ∧ 0x080 + i.val - offset < bytes.length := by omega
    by_cases h : offset ≤ 0x080 + i.val ∧ 0x080 + i.val - offset < bytes.length
    · rw [dif_pos h, dif_pos (hiff.2 h)]
      simp only [hplace]
    · rw [dif_neg h, dif_neg (mt hiff.1 h)]
      rfl
  · rw [if_neg hle, storeBytes_getElem _ _ _ _ hi]
    have hplace : 0x080 - offset + (i.val - 0) = 0x080 + i.val - offset := by omega
    have hiff : (0 ≤ i.val ∧ i.val - 0 < (bytes.drop (0x080 - offset)).length) ↔
        offset ≤ 0x080 + i.val ∧ 0x080 + i.val - offset < bytes.length := by
      rw [List.length_drop]; omega
    by_cases h : offset ≤ 0x080 + i.val ∧ 0x080 + i.val - offset < bytes.length
    · rw [dif_pos h, dif_pos (hiff.2 h), List.getElem_drop]
      simp only [hplace]
    · rw [dif_neg h, dif_neg (mt hiff.1 h)]
      rfl

/-- A write outside the block leaves it. -/
theorem writeRequestBytes_outside {offset : Nat} {bytes : List Byte} {s : State}
    (h : offset + bytes.length ≤ 0x080 ∨ 0x0C0 ≤ offset) :
    writeRequestBytes offset bytes s = s := by
  have hblock : (writeRequestBytes offset bytes s).port.requestBlock = s.port.requestBlock := by
    ext1 i hi
    exact (writeRequestBytes_getElem offset bytes s ⟨i, hi⟩).trans
      (dif_neg (by dsimp only; omega))
  show { s with port := { s.port with
    requestBlock := (writeRequestBytes offset bytes s).port.requestBlock } } = s
  rw [hblock]

theorem writeRegister32_unmapped {offset : Nat} {value : Word} {s : State}
    (h : offset ∉ [0x020, 0x024, 0x030, 0x040, 0x200, 0x204, 0x208, 0x20C, 0x210, 0x214, 0x218]) :
    writeRegister32 offset value s = s := by
  simp only [List.mem_cons, List.not_mem_nil, or_false, not_or] at h
  simp only [writeRegister32, h, if_false]

theorem writeRegister64_unmapped {offset : Nat} {value : DWord} {s : State}
    (h : offset ∉ [0x200, 0x210]) : writeRegister64 offset value s = s := by
  simp only [List.mem_cons, List.not_mem_nil, or_false, not_or] at h
  simp only [writeRegister64, h, if_false]

/-- A write that meets no register is stored in the request block alone. -/
theorem windowWrite_unmapped {offset : Nat} {bytes : List Byte} {s : State}
    (h4 : ¬(bytes.length = 4 ∧ offset ∈
      [0x020, 0x024, 0x030, 0x040, 0x200, 0x204, 0x208, 0x20C, 0x210, 0x214, 0x218]))
    (h8 : ¬(bytes.length = 8 ∧ offset ∈ [0x200, 0x210])) :
    windowWrite offset bytes s = writeRequestBytes offset bytes s := by
  unfold windowWrite
  dsimp only
  split
  · exact writeRegister32_unmapped fun ho => h4 ⟨‹_›, ho⟩
  · split
    · exact writeRegister64_unmapped fun ho => h8 ⟨‹_›, ho⟩
    · rfl

/-- A 32-bit write outside the block is the register's. -/
theorem exec_register32 {offset : Nat} {value : Word} {s : State}
    (h : offset + 4 ≤ 0x080 ∨ 0x0C0 ≤ offset) :
    exec (.registerWrite offset (bytesLE 4 value.toNat)) s =
      event s (writeRegister32 offset value) := by
  have hvalue : u32At (bytesLE 4 value.toNat) 0 = value := by
    apply BitVec.eq_of_toNat_eq
    have hread := leAt_bytesLE_append 4 value.toNat []
    rw [List.append_nil] at hread
    rw [u32At_toNat, hread]
    exact Nat.mod_eq_of_lt value.isLt
  rw [exec_registerWrite]
  refine congrArg (event s) (funext fun t => ?_)
  unfold windowWrite
  dsimp only
  rw [if_pos (bytesLE_length _ _), writeRequestBytes_outside (by rwa [bytesLE_length]), hvalue]

/-- A 64-bit write outside the block is the register's. -/
theorem exec_register64 {offset : Nat} {value : DWord} {s : State} (h : 0x0C0 ≤ offset) :
    exec (.registerWrite offset (bytesLE 8 value.toNat)) s =
      event s (writeRegister64 offset value) := by
  have hvalue : BitVec.ofNat 64 (leAt (bytesLE 8 value.toNat) 0 8) = value := by
    have hread := leAt_bytesLE_append 8 value.toNat []
    rw [List.append_nil] at hread
    apply BitVec.eq_of_toNat_eq
    rw [hread, BitVec.toNat_ofNat, Nat.mod_mod_of_dvd _ (by decide)]
    exact Nat.mod_eq_of_lt value.isLt
  rw [exec_registerWrite]
  refine congrArg (event s) (funext fun t => ?_)
  unfold windowWrite
  dsimp only
  rw [if_neg (by simp), if_pos (bytesLE_length _ _), writeRequestBytes_outside (.inr h), hvalue]

/-! ## The command control word (R151) -/

theorem settle_withOverrun (s t : State) (b : Bool) :
    settle s (t.withOverrun b) = (settle s t).withOverrun b := by
  have ho : (t.withOverrun b).intOutput = t.intOutput := rfl
  have hb : (t.withOverrun b).bus = t.bus := rfl
  unfold settle
  rw [ho, hb]
  by_cases h : (!s.intOutput && t.intOutput && t.bus.msiEnabled && t.bus.busMaster) = true
  · rw [if_pos h, if_pos h]
    rfl
  · rw [if_neg h, if_neg h]

/-- A request of the Record Unit at its taking: answered, or presented (R150 steps 5 to 8). -/
theorem takeRequest_unit {s : State} (h : Header) (op : UnitOp) (hr : s.readiness = .ready) :
    takeRequest h (.unit op) s =
      match portRefuses (gateAfterOther s.gate) op with
      | some r => respond (unitOpCode op) h.tag r { s with gate := gateAfterOther s.gate }
      | none =>
        { s with
          gate := gateAfterOther s.gate
          port := { s.port with phase := .waiting ⟨h, op⟩, done := false } } := by
  unfold takeRequest
  exact if_neg (by simp [hr])

theorem respond_withOverrun (code : Byte) (tag : Half) (r : Reply) (s : State) (b : Bool) :
    respond code tag r (s.withOverrun b) = (respond code tag r s).withOverrun b := rfl

/-- The taking of a request neither reads nor writes OVERRUN. -/
theorem takeRequest_withOverrun (h : Header) (op : PortOp) (s : State) (b : Bool) :
    takeRequest h op (s.withOverrun b) = (takeRequest h op s).withOverrun b := by
  have hg : (s.withOverrun b).gate = s.gate := rfl
  cases hr : s.readiness with
  | initialising =>
    rw [takeRequest_notReady h op hr, takeRequest_notReady (s := s.withOverrun b) h op hr]
    rfl
  | ready =>
    cases op with
    | unknown code =>
      rw [takeRequest_unknown h code hr, takeRequest_unknown (s := s.withOverrun b) h code hr]
      rfl
    | openConfig key =>
      rw [takeRequest_openConfig h key hr,
        takeRequest_openConfig (s := s.withOverrun b) h key hr, hg]
      exact respond_withOverrun _ _ _ { s with gate := (gateAfterKey s.gate key).1 } b
    | closeConfig =>
      rw [takeRequest_closeConfig h hr, takeRequest_closeConfig (s := s.withOverrun b) h hr]
      exact respond_withOverrun _ _ _ { s with gate := .closed } b
    | unit op =>
      rw [takeRequest_unit h op hr, takeRequest_unit (s := s.withOverrun b) h op hr, hg]
      cases portRefuses (gateAfterOther s.gate) op <;> rfl

theorem takeRequest_overrun (h : Header) (op : PortOp) (s : State) :
    (takeRequest h op s).port.overrun = s.port.overrun := by
  exact congrArg (·.port.overrun) (takeRequest_withOverrun h op s s.port.overrun)

/-- A GO leaves OVERRUN set where it was set, or where a GO with OVERRUN clear sets it (R151). -/
theorem pressGo_eq_withOverrun (s : State) :
    pressGo s = (pressGo (s.withOverrun false)).withOverrun
      (s.port.overrun || (pressGo (s.withOverrun false)).port.overrun) := by
  by_cases hi : s.port.phase = .idle
  · have htaken : pressGo (s.withOverrun false) = (pressGo s).withOverrun false := by
      rw [show pressGo s = _ from offerRequest_idle hi, ← takeRequest_withOverrun]
      exact offerRequest_idle (s := s.withOverrun false) hi
    have hkept : (pressGo s).port.overrun = s.port.overrun := by
      rw [show pressGo s = _ from offerRequest_idle hi, takeRequest_overrun]
    rw [htaken, show ((pressGo s).withOverrun false).port.overrun = false from rfl, Bool.or_false,
      ← hkept]
    rfl
  · rw [pressGo_busy hi, pressGo_busy (s := s.withOverrun false) hi,
      show ((s.withOverrun false).withOverrun true).port.overrun = true from rfl, Bool.or_true]
    rfl

/-! ## The rows of the control words, and the statement -/

/-- A bit that is written as 0 takes no action. -/
theorem event_id {s : State} (hc : s.inColdReset = false) : event s (fun s => s) = .next s :=
  event_quiet hc rfl rfl

/-- The command control word by its two bits (R151). -/
theorem writeCommandControl_eq (value : Word) :
    writeCommandControl value = fun s =>
      actIf (value.getLsbD 0) pressGo (actIf (value.getLsbD 3) (·.withOverrun false) s) := rfl

/-- The batch control word by its five bits (R166). -/
theorem writeBatchControl_eq (value : Word) :
    writeBatchControl value = fun s =>
      actIf (value.getLsbD 0) armNext (actIf (value.getLsbD 3) resumeBatch
        (actIf (value.getLsbD 2) pauseBatch (actIf (value.getLsbD 1) abortBatch
          (actIf (value.getLsbD 4) clearArmRefused s)))) := rfl

theorem exec_portReset_bit {s : State} {value : Word} (hc : s.inColdReset = false) :
    exec (.registerWrite 0x030 (bytesLE 4 value.toNat)) s =
      if value.getLsbD 0 then exec (.portReset .registerWrite) s else .next s := by
  refine (exec_register32 (.inl (by decide))).trans ?_
  show event s (actIf (value.getLsbD 0) portReset) = _
  cases value.getLsbD 0
  · exact event_id hc
  · rfl

/-- OVERRUN_CLEAR in the command control word is its own row, the GO of the same write included. -/
theorem exec_commandControl_clear {s : State} {value : Word} (h : value.getLsbD 3 = true) :
    exec (.registerWrite 0x040 (bytesLE 4 value.toNat)) s =
      exec (.overrunClear (value.getLsbD 0)) s := by
  refine (exec_register32 (.inl (by decide))).trans ?_
  show event s (writeCommandControl value) = _
  rw [writeCommandControl_eq, h, exec_overrunClear]
  rfl

/-- A GO alone is the GO of OVERRUN_CLEAR with OVERRUN left set where it was. -/
theorem exec_commandControl_go {s : State} {value : Word} (hc : s.inColdReset = false)
    (h3 : value.getLsbD 3 = false) (h0 : value.getLsbD 0 = true) :
    ∃ t, exec (.overrunClear true) s = .next t ∧
      exec (.registerWrite 0x040 (bytesLE 4 value.toNat)) s =
        .next (t.withOverrun (s.port.overrun || t.port.overrun)) := by
  refine ⟨_, exec_overrunClear_go hc, (exec_register32 (.inl (by decide))).trans ?_⟩
  show event s (writeCommandControl value) = _
  rw [writeCommandControl_eq, h3, h0]
  show event s pressGo = _
  rw [event_live hc, settle_port, ← settle_withOverrun, ← pressGo_eq_withOverrun]

theorem exec_commandControl_none {s : State} {value : Word} (hc : s.inColdReset = false)
    (h3 : value.getLsbD 3 = false) (h0 : value.getLsbD 0 = false) :
    exec (.registerWrite 0x040 (bytesLE 4 value.toNat)) s = .next s := by
  refine (exec_register32 (.inl (by decide))).trans ?_
  show event s (writeCommandControl value) = _
  rw [writeCommandControl_eq, h3, h0]
  exact event_id hc

/-- The batch control word's actions, taken as events one after another (R166). -/
theorem exec_batchControl {s : State} (value : Word) (hc : s.inColdReset = false) :
    ∃ s₁ s₂ s₃ s₄ t,
      ActsOn (value.getLsbD 4) .armRefusedClear s s₁ ∧ ActsOn (value.getLsbD 1) .abort s₁ s₂ ∧
        ActsOn (value.getLsbD 2) .pause s₂ s₃ ∧ ActsOn (value.getLsbD 3) .resume s₃ s₄ ∧
        ActsOn (value.getLsbD 0) .arm s₄ t ∧
        exec (.registerWrite 0x218 (bytesLE 4 value.toNat)) s = .next t := by
  have hclear : BlindAction clearArmRefused := blind_mapEngine _
  have b₁ := hclear.actIf (value.getLsbD 4)
  have b₂ := (blind_abortBatch.actIf (value.getLsbD 1)).comp b₁
  have b₃ := (blind_pauseBatch.actIf (value.getLsbD 2)).comp b₂
  have b₄ := (blind_resumeBatch.actIf (value.getLsbD 3)).comp b₃
  have live {f : State → State} (b : BlindAction f) : (f s).inColdReset = false :=
    (b.acts s).sameQueue.inColdReset.trans hc
  have first := hclear.actsOn (bit := value.getLsbD 4) (c := .armRefusedClear) (s := s) (m := s) hc
    (fun _ => rfl) id
  rw [settle_quiet rfl] at first
  refine ⟨_, _, _, _, _, first,
    blind_abortBatch.actsOn (live b₁) (fun _ => rfl) (b₁.output_stays s),
    blind_pauseBatch.actsOn (live b₂) (fun _ => rfl) (b₂.output_stays s),
    blind_resumeBatch.actsOn (live b₃) (fun _ => rfl) (b₃.output_stays s),
    blind_armNext.actsOn (live b₄) (fun _ => rfl) (b₄.output_stays s), ?_⟩
  refine (exec_register32 (.inr (by decide))).trans ?_
  show event s (writeBatchControl value) = _
  rw [writeBatchControl_eq, event_live hc]

/-- Settles O53: a write off the registers reaches the block alone, and one on a register is that
register's row. -/
theorem windowWritesReachTheirRegister : Obligations.WindowWritesReachTheirRegister := by
  intro s hc
  refine ⟨fun offset bytes h4 h8 => ⟨_, event_quiet hc (windowWrite_unmapped h4 h8) rfl, rfl,
    writeRequestBytes_getElem offset bytes s⟩, fun value => ?word, fun value => ?double⟩
  case word =>
    exact ⟨exec_register32 (.inl (by decide)), exec_register32 (.inl (by decide)),
      exec_portReset_bit hc, exec_register32 (.inr (by decide)), exec_register32 (.inr (by decide)),
      exec_register32 (.inr (by decide)), exec_register32 (.inr (by decide)),
      exec_register32 (.inr (by decide)), exec_register32 (.inr (by decide)),
      exec_commandControl_clear, exec_commandControl_none hc, exec_commandControl_go hc,
      exec_batchControl value hc⟩
  case double =>
    exact ⟨exec_register64 (by decide), exec_register64 (by decide)⟩

end Sys2Proof.Machine
end

section
/-! Reads of the register window: each register at its place, the two blocks, and the places where
nothing is mapped. -/

namespace Sys2Proof.Machine

open Sys2Proof

/-! ## Where the registers stand (R179) -/

/-- Offset and width of each register, in the order of `registers`. -/
def registerSpans : List (Nat × Nat) :=
  [(0x000, 4), (0x004, 4), (0x008, 4), (0x00C, 4), (0x010, 4), (0x014, 4), (0x018, 4), (0x020, 4),
   (0x024, 4), (0x028, 4), (0x030, 4), (0x040, 4), (0x200, 8), (0x208, 4), (0x20C, 4), (0x210, 8),
   (0x218, 4), (0x220, 4), (0x224, 4), (0x228, 4), (0x230, 8), (0x238, 8), (0x240, 4), (0x244, 4),
   (0x248, 4), (0x250, 8), (0x258, 8)]

theorem registers_spans (s : State) :
    (registers s).map (fun r => (r.1, r.2.1)) = registerSpans := rfl

/-- A place within a span. -/
def covers (span : Nat × Nat) (offset : Nat) : Prop := span.1 ≤ offset ∧ offset < span.1 + span.2

/-- Every register ends before the next begins. -/
theorem registerSpans_disjoint :
    registerSpans.Pairwise fun a b => a.1 + a.2 ≤ b.1 := by decide

/-- No register stands in a block. -/
theorem registerSpans_off_blocks : ∀ span ∈ registerSpans,
    span.1 + span.2 ≤ 0x080 ∨ 0x0C0 ≤ span.1 ∧ span.1 + span.2 ≤ 0x100 ∨ 0x200 ≤ span.1 := by decide

/-- A byte of a register shows its value there, little-endian. -/
theorem windowByte_register {s : State} {base width value k : Nat}
    (hr : (base, width, value) ∈ registers s) (hk : k < width) :
    s.windowByte (base + k) = BitVec.ofNat 8 (value / 256 ^ k) := by
  have hspan : (base, width) ∈ registerSpans := List.mem_map_of_mem (f := fun r => (r.1, r.2.1)) hr
  have hoff := registerSpans_off_blocks _ hspan
  dsimp only at hoff
  have hapart : (registers s).Pairwise fun a b => a.1 + a.2.1 ≤ b.1 :=
    List.pairwise_map.1 (registers_spans s ▸ registerSpans_disjoint)
  have hfind : (registers s).find? (fun r =>
      decide (r.1 ≤ base + k) && decide (base + k < r.1 + r.2.1)) = some (base, width, value) := by
    generalize registers s = rs at hr hapart
    induction rs with
    | nil => simp at hr
    | cons r rs ih =>
      rw [List.pairwise_cons] at hapart
      rcases List.mem_cons.1 hr with rfl | hmem
      · simp [hk]
      · have hbefore := hapart.1 _ hmem
        rw [List.find?_cons_of_neg (by simp; omega)]
        exact ih hmem hapart.2
  unfold State.windowByte
  rw [if_neg (by omega), if_neg (by omega), hfind]
  dsimp only
  rw [Nat.add_sub_cancel_left]

/-- A read of a register of its own width shows its value (R180). -/
theorem windowRead_register {s : State} (hc : s.inColdReset = false) {base width value : Nat}
    (hr : (base, width, value) ∈ registers s) :
    s.windowRead base width = some (bytesLE width value) :=
  windowRead_shows hc base width value fun _ hk => windowByte_register hr hk

/-- A place in no block and no register reads 0. -/
theorem windowByte_unmapped {s : State} {offset : Nat}
    (hb : ¬(0x080 ≤ offset ∧ offset < 0x0C0) ∧ ¬(0x100 ≤ offset ∧ offset < 0x200))
    (hr : ∀ span ∈ registerSpans, ¬covers span offset) : s.windowByte offset = 0 := by
  have hfind : (registers s).find? (fun r =>
      decide (r.1 ≤ offset) && decide (offset < r.1 + r.2.1)) = none := by
    refine List.find?_eq_none.2 fun r hmem hcover => ?_
    simp only [Bool.and_eq_true, decide_eq_true_eq] at hcover
    exact hr (r.1, r.2.1) (List.mem_map_of_mem (f := fun r => (r.1, r.2.1)) hmem) hcover
  unfold State.windowByte
  rw [if_neg hb.1, if_neg hb.2, hfind]

/-! ## Reads byte by byte -/

theorem windowRead_held {s : State} (hc : s.inColdReset = true) (offset length : Nat) :
    s.windowRead offset length = none := by
  unfold State.windowRead
  rw [if_pos hc]

theorem windowRead_live {s : State} (hc : s.inColdReset = false) (offset length : Nat) :
    s.windowRead offset length =
      some ((List.range length).map fun i => s.windowByte (offset + i)) := by
  unfold State.windowRead
  rw [if_neg (by simp [hc])]

theorem windowRead_byte {s : State} (hc : s.inColdReset = false) (offset : Nat) :
    s.windowRead offset 1 = some [s.windowByte offset] := windowRead_live hc offset 1

theorem windowRead_requestBlock {s : State} (hc : s.inColdReset = false) (i : Fin 64) :
    s.windowRead (0x080 + i.val) 1 = some [s.port.requestBlock[i]] := by
  have hi := i.isLt
  rw [windowRead_byte hc]
  unfold State.windowByte
  rw [if_pos (by omega), Nat.add_sub_cancel_left]
  simp [Vector.getD, hi]

theorem windowRead_responseBlock {s : State} (hc : s.inColdReset = false) (i : Fin 256) :
    s.windowRead (0x100 + i.val) 1 = some [s.port.responseBlock[i]] := by
  have hi := i.isLt
  rw [windowRead_byte hc]
  unfold State.windowByte
  rw [if_neg (by omega), if_pos (by omega), Nat.add_sub_cancel_left]
  simp [Vector.getD, hi]

/-- A place where nothing is mapped, or the write-only port reset, reads 0 (R179). -/
theorem windowRead_hole {s : State} (hc : s.inColdReset = false) {offset : Nat}
    (h : 0x01C ≤ offset ∧ offset < 0x020 ∨ 0x02C ≤ offset ∧ offset < 0x040 ∨
      0x044 ≤ offset ∧ offset < 0x080 ∨ 0x0C0 ≤ offset ∧ offset < 0x100 ∨
      0x21C ≤ offset ∧ offset < 0x220 ∨ 0x22C ≤ offset ∧ offset < 0x230 ∨
      0x24C ≤ offset ∧ offset < 0x250 ∨ 0x260 ≤ offset) :
    s.windowRead offset 1 = some [0] := by
  rw [windowRead_byte hc]
  by_cases hreset : 0x030 ≤ offset ∧ offset < 0x034
  · have hbyte := windowByte_register (s := s) (base := 0x030) (width := 4) (value := 0)
      (k := offset - 0x030) (by simp [registers]) (by omega)
    rw [Nat.add_sub_of_le hreset.1] at hbyte
    rw [hbyte]
    simp
  · rw [windowByte_unmapped (by omega)]
    simp only [registerSpans, List.forall_mem_cons, List.not_mem_nil, covers, false_implies,
      implies_true, and_true]
    omega

/-- A narrower read is the bytes it names of a wider one (R180). -/
theorem windowRead_narrower {s : State} (hc : s.inColdReset = false)
    {offset length skip count : Nat} (h : skip + count ≤ length) :
    s.windowRead (offset + skip) count =
      (s.windowRead offset length).map fun bytes => (bytes.drop skip).take count := by
  rw [windowRead_live hc, windowRead_live hc, Option.map_some]
  refine congrArg some (List.ext_getElem (by simp; omega) fun i h₁ h₂ => ?_)
  simp [Nat.add_assoc]

/-! ## The values (R179) -/

/-- A yes-or-no bit of a register at its weight. -/
theorem mul_toNat_eq_ite (n : Nat) (b : Bool) : n * b.toNat = if b then n else 0 := by
  cases b <;> simp

theorem BusLink.output_eq (b : BusLink) :
    b.output.toNat = if b.status &&& b.enable = 0 then 0 else 1 := by
  unfold BusLink.output
  by_cases h : b.status &&& b.enable = 0
  · rw [if_pos h, h]
    rfl
  · rw [if_neg h, bne_iff_ne.2 h]
    rfl

theorem frontValue_toNat (s : State) (f : Front → DWord) :
    frontValue s (fun x => (f x).toNat) = (s.engine.front.elim 0 f).toNat := by
  unfold frontValue
  cases s.engine.front <;> rfl

theorem StopOptions.bits_eq (o : StopOptions) (n : Nat) :
    n * o.bits = (if o.onAction then n else 0) + if o.onRefusal then 2 * n else 0 := by
  unfold StopOptions.bits
  cases o.onAction <;> cases o.onRefusal <;> simp <;> omega

/-- While the ring is empty and the part INITIALISING no slot counts as free or live (R13, R181). -/
theorem counts_initialising {s : State} (hi : s.readiness = .initialising)
    (he : s.unit.ringHead = s.unit.ringTail) : s.liveCount + 65536 * s.freeCount = 0 := by
  have hfree : s.freeCount = 0 := by
    unfold State.freeCount RecordUnit.freeCount
    rw [he, Nat.add_sub_cancel_left]
  unfold State.liveCount
  rw [if_pos hi, hfree]

theorem liveCount_ready {s : State} (hr : s.readiness = .ready) :
    s.liveCount = 4095 - s.unit.freeCount := by
  unfold State.liveCount
  exact if_neg (by simp [hr])

/-- Settles O54: every register stands at its place in the list of registers, and its value there is
the one stated. -/
theorem windowReadsShowTheRegisters : Obligations.WindowReadsShowTheRegisters := by
  intro s
  refine ⟨windowRead_held, fun hc => ?_⟩
  intro u e shows shows8 front free
  have at4 : ∀ {base value v : Nat}, (base, 4, v) ∈ registers s → v = value → shows base value :=
    fun hr hv => hv ▸ windowRead_register hc hr
  have at8 : ∀ {base v : Nat} {value : DWord}, (base, 8, v) ∈ registers s → v = value.toNat →
    shows8 base value := fun hr hv => by subst hv; exact windowRead_register hc hr
  have mem : ∀ (n : Nat) {r : Nat × Nat × Nat}, (registers s)[n]? = some r → r ∈ registers s :=
    fun n _ h => List.mem_of_getElem? h
  refine ⟨⟨at4 (mem 0 rfl) ?device, at4 (mem 1 rfl) rfl,
      fun hi he => at4 (mem 2 rfl) (counts_initialising hi he),
      fun hr => at4 (mem 2 rfl) (congrArg (· + _) (liveCount_ready hr)), at4 (mem 3 rfl) rfl,
      at4 (mem 4 rfl) ?survey, at4 (mem 5 rfl) rfl, at4 (mem 6 rfl) rfl⟩,
    ⟨at4 (mem 7 rfl) rfl, at4 (mem 8 rfl) rfl, at4 (mem 9 rfl) (BusLink.output_eq _)⟩,
    at4 (mem 11 rfl) ?command,
    ⟨at8 (mem 12 rfl) rfl, at4 (mem 13 rfl) rfl, at4 (mem 14 rfl) ?options, at8 (mem 15 rfl) rfl,
      at4 (mem 16 rfl) ?batch⟩,
    ⟨at4 (mem 17 rfl) ?front, at4 (mem 18 rfl) rfl, at4 (mem 19 rfl) rfl,
      at8 (mem 20 rfl) (frontValue_toNat s _), at8 (mem 21 rfl) (frontValue_toNat s _)⟩,
    ⟨at4 (mem 22 rfl) ?report, at4 (mem 23 rfl) rfl, at4 (mem 24 rfl) rfl, at8 (mem 25 rfl) rfl,
      at8 (mem 26 rfl) rfl⟩,
    windowRead_requestBlock hc, windowRead_responseBlock hc, fun _ h => windowRead_hole hc h,
    fun _ _ _ _ h => windowRead_narrower hc h⟩
  case device =>
    unfold deviceState
    rw [mul_toNat_eq_ite, mul_toNat_eq_ite]
    cases s.gate <;> rfl
  case survey => cases s.unit.survey.state <;> rfl
  case command =>
    unfold commandControl
    rw [mul_toNat_eq_ite, mul_toNat_eq_ite, mul_toNat_eq_ite]
    by_cases hi : s.port.phase = .idle <;> simp [hi]
  case options =>
    have hbits := StopOptions.bits_eq s.engine.next.options 1
    rwa [Nat.one_mul] at hbits
  case batch =>
    unfold batchControl
    rw [mul_toNat_eq_ite, mul_toNat_eq_ite, mul_toNat_eq_ite, mul_toNat_eq_ite]
    cases s.engine.phase <;> rfl
  case front =>
    refine congrArg (frontValue s) (funext fun f => ?_)
    rw [StopOptions.bits_eq, Nat.add_assoc]
  case report =>
    rw [mul_toNat_eq_ite]
    cases s.engine.report.cause <;> rfl

end Sys2Proof.Machine
end

section
/-! The Batch Engine by its rows: arming and promotion, ABORT, PAUSE and RESUME, the NEXT fields,
the events of the fetch, and the completion of a batch reading. -/

namespace Sys2Proof.Machine

open Sys2Proof

/-! ## Events of the engine (R184, R185) -/

theorem OnlyBatch.settle {s t : State} (h : OnlyBatch s t) : OnlyBatch s (settle s t) := by
  obtain ⟨hunit, hport, hgate, hready, henable, hsent, hsettings, hothers⟩ := h
  constructor <;> simpa

/-- An event of the engine that issues no item of its own announces what it latched. -/
theorem OnlyBatch.announced {s t : State} (h : OnlyBatch s t)
    (ho : t.bus.outbound = s.bus.outbound) : Announced s (Machine.settle s t) :=
  let ⟨hmaster, hmsi, haddress, hdata⟩ := h.settings
  announced_settle ho hmsi hmaster haddress hdata

/-- An event that ends the batch with a cause other than COMPLETE (R174). -/
theorem event_endBatch {s : State} {f : Front} {cause : EndCause} {act : State → State}
    (hc : s.inColdReset = false) (hact : act s = s.endBatch cause) (hf : s.engine.front = some f)
    (hn : cause ≠ .complete) :
    ∃ t, event s act = .next t ∧ OnlyBatch s t ∧ t.engine = endedEngine s.engine f cause ∧
      t.fetchSerial = s.fetchSerial ∧
      t.bus.status = s.bus.status ||| Source.batchEnd.mask ∧ Announced s t := by
  have hended := endBatch_ended hf fun h => absurd h hn
  have hbatch := onlyBatch_endBatch s cause
  refine ⟨_, event_live hc, ?_⟩
  rw [hact]
  refine ⟨hbatch.settle, ?_, ?_, ?_, hbatch.announced (endBatch_outbound s cause)⟩
  all_goals simp [hended]

/-! ## ARM (R165 to R168) -/

/-- The conditions under which an ARM is accepted (R165, R166). -/
theorem armIsRefused_eq_false_iff (s : State) :
    armIsRefused s = false ↔
      s.readiness = .ready ∧ s.engine.armed = false ∧ s.engine.next.count ≠ 0 ∧
        s.engine.next.source.toNat % 16 = 0 ∧ s.engine.next.result.toNat % 16 = 0 := by
  have hready : s.readiness ≠ .initialising ↔ s.readiness = .ready := by
    cases s.readiness <;> simp
  simp [armIsRefused, aligned16, and_assoc, hready]

theorem armNext_refused {s : State} (h : armIsRefused s = true) :
    armNext s = { s with engine := { s.engine with armRefused := true } } := by
  unfold armNext
  exact if_pos h

theorem armNext_arms {s : State} (h : armIsRefused s = false) (hp : s.engine.phase ≠ .idle) :
    armNext s = { s with engine := { s.engine with armed := true } } := by
  unfold armNext
  rw [if_neg (by simp [h])]
  exact if_neg hp

/-- Accepted in IDLE, NEXT is promoted at once (R167). -/
theorem armNext_promotes {s : State} (h : armIsRefused s = false) (hp : s.engine.phase = .idle) :
    armNext s =
      { s with
        fetchSerial := if s.engine.pauseRequested then s.fetchSerial else s.fetchSerial + 1
        engine := promotedEngine s.engine s.engine.report s.bus.busMaster s.fetchSerial
        bus := { s.bus with status := s.bus.status ||| Source.nextTaken.mask } } := by
  unfold armNext
  rw [if_neg (by simp [h])]
  exact (if_pos hp).trans (promote_eq _)

/-- Settles O46: the ARM by its acceptance and the engine's phase. -/
theorem armArmsOrPromotesNext : Obligations.ArmArmsOrPromotesNext := by
  intro s hc e good
  have haccepts : armIsRefused s = false ↔ good := armIsRefused_eq_false_iff s
  refine ⟨fun hg => ?refused, fun hg hp => ?arms, fun hg hp => ?promotes⟩
  case refused =>
    exact event_quiet hc (armNext_refused (Bool.eq_true_of_not_eq_false (mt haccepts.1 hg))) rfl
  case arms => exact event_quiet hc (armNext_arms (haccepts.2 hg) hp) rfl
  case promotes =>
    have hpromoted := armNext_promotes (haccepts.2 hg) hp
    have hbatch := (BatchActs.armed s).onlyBatch
    refine ⟨_, event_live hc, hbatch.settle, ?_, ?_, ?_, hbatch.announced (by rw [hpromoted])⟩
    all_goals simp [hpromoted, e]

/-! ## ABORT, PAUSE and RESUME (R175, R176) -/

theorem abortBatch_ignored {s : State}
    (h : s.engine.phase = .idle ∨ s.engine.phase = .running ∧ s.engine.abortPending = true) :
    abortBatch s = s := by
  unfold abortBatch
  obtain hp | ⟨hp, ha⟩ := h
  · rw [hp]
  · rw [hp]
    exact if_pos ha

/-- With a reading granted the ABORT pends (R175). -/
theorem abortBatch_pends {s : State} (hp : s.engine.phase = .running)
    (ha : s.engine.abortPending = false) (hg : s.engine.flight = some .granted) :
    abortBatch s =
      { s with engine := { s.engine with abortPending := true, pauseRequested := false } } := by
  unfold abortBatch
  rw [hp]
  dsimp only
  rw [if_neg (by simp [ha])]
  split
  · rfl
  · next hother => exact absurd hg hother

/-- In PAUSED, and in RUNNING with no reading granted, the ABORT ends the batch (R175). -/
theorem abortBatch_ends {s : State}
    (h : s.engine.phase = .paused ∨
      s.engine.phase = .running ∧ s.engine.abortPending = false ∧
        s.engine.flight ≠ some .granted) :
    abortBatch s = s.endBatch .aborted := by
  unfold abortBatch
  obtain hp | ⟨hp, ha, hg⟩ := h
  · rw [hp]
  · simp only [hp, ha, Bool.false_eq_true, if_false]

/-- Settles O47: ABORT is ignored, pends, or ends the batch. -/
theorem abortEndsTheBatch : Obligations.AbortEndsTheBatch := by
  intro s hc e
  exact ⟨fun h => event_quiet hc (abortBatch_ignored h) rfl,
    fun hp ha hg => event_quiet hc (abortBatch_pends hp ha hg) rfl,
    fun f hf h => event_endBatch hc (abortBatch_ends h) hf nofun⟩

theorem pauseBatch_running {s : State} (hp : s.engine.phase = .running) :
    pauseBatch s = { s with engine := { s.engine with pauseRequested := true } } := by
  unfold pauseBatch
  exact if_pos hp

theorem pauseBatch_ignored {s : State} (hp : s.engine.phase ≠ .running) : pauseBatch s = s := by
  unfold pauseBatch
  exact if_neg hp

theorem resumeBatch_idle {s : State} (hp : s.engine.phase = .idle) : resumeBatch s = s := by
  unfold resumeBatch
  rw [hp]

theorem resumeBatch_running {s : State} (hp : s.engine.phase = .running) :
    resumeBatch s = { s with engine := { s.engine with pauseRequested := false } } := by
  unfold resumeBatch
  rw [hp]
  rfl

/-- In PAUSED the RESUME issues the fetch at FRONT's current source address (R168, R176). -/
theorem resumeBatch_paused {s : State} {f : Front} (hp : s.engine.phase = .paused)
    (hf : s.engine.front = some f) :
    resumeBatch s =
      { s with
        fetchSerial := s.fetchSerial + 1
        engine := { s.engine with
          phase := .running
          flight := some (.fetch s.fetchSerial (fetchReads s.bus.busMaster f.source)) } } := by
  unfold resumeBatch
  rw [hp]
  exact issueFetch_of_front (by simpa using hf)

/-- Settles O48: PAUSE and RESUME phase by phase. -/
theorem pauseAndResumeHoldTheBatch : Obligations.PauseAndResumeHoldTheBatch := by
  intro s hc e
  exact ⟨fun hp => ⟨event_quiet hc (pauseBatch_running hp) rfl,
      event_quiet hc (resumeBatch_running hp) rfl⟩,
    fun hp => event_quiet hc (pauseBatch_ignored hp) rfl,
    fun hp => event_quiet hc (resumeBatch_idle hp) rfl,
    fun f hp hf => event_quiet hc (resumeBatch_paused hp hf) rfl⟩

/-! ## NEXT fields (R165, R180) -/

theorem setLow_toNat (address : DWord) (value : Word) :
    (setLow address value).toNat = address.toNat / 2 ^ 32 * 2 ^ 32 + value.toNat := by
  have := address.isLt
  rw [setLow, BitVec.toNat_append, ← Nat.shiftLeft_add_eq_or_of_lt value.isLt, Nat.shiftLeft_eq,
    BitVec.extractLsb'_toNat, Nat.shiftRight_eq_div_pow, Nat.mod_eq_of_lt (by omega)]

theorem setHigh_toNat (address : DWord) (value : Word) :
    (setHigh address value).toNat = value.toNat * 2 ^ 32 + address.toNat % 2 ^ 32 := by
  rw [setHigh, BitVec.toNat_append,
    ← Nat.shiftLeft_add_eq_or_of_lt (address.extractLsb' 0 32).isLt, Nat.shiftLeft_eq,
    BitVec.extractLsb'_toNat, Nat.shiftRight_zero]

/-- A write of the low half stores it and keeps the high half. -/
theorem setLow_halves (address : DWord) (value : Word) :
    (setLow address value).toNat % 2 ^ 32 = value.toNat ∧
      (setLow address value).toNat / 2 ^ 32 = address.toNat / 2 ^ 32 := by
  have := value.isLt
  rw [setLow_toNat]
  omega

/-- A write of the high half stores it and keeps the low half. -/
theorem setHigh_halves (address : DWord) (value : Word) :
    (setHigh address value).toNat % 2 ^ 32 = address.toNat % 2 ^ 32 ∧
      (setHigh address value).toNat / 2 ^ 32 = value.toNat := by
  rw [setHigh_toNat]
  omega

theorem writeNext_armed {s : State} (h : s.engine.armed = true) (w : NextWrite) :
    writeNext w s = s := by
  unfold writeNext
  exact if_pos h

theorem writeNext_stores {s : State} (h : s.engine.armed = false) (w : NextWrite) :
    writeNext w s =
      { s with engine := { s.engine with next := nextFieldsAfter s.engine.next w } } := by
  unfold writeNext
  exact if_neg (by simp [h])

/-- Settles O49: the fields by the place written, an address by its halves. -/
theorem nextFieldsAreStoredWhenNotArmed : Obligations.NextFieldsAreStoredWhenNotArmed := by
  intro s hc e d low high
  refine ⟨event_quiet hc rfl rfl, fun ha w => event_quiet hc (writeNext_armed ha w) rfl,
    fun ha w => ⟨nextFieldsAfter d w, event_quiet hc (writeNext_stores ha w) rfl, ?_⟩⟩
  cases w with
  | source v => rfl
  | sourceLow v => exact ⟨rfl, setLow_halves d.source v⟩
  | sourceHigh v => exact ⟨rfl, setHigh_halves d.source v⟩
  | count v => exact ⟨rfl, BitVec.toNat_setWidth 16 v⟩
  | options v => rfl
  | result v => rfl
  | resultLow v => exact ⟨rfl, setLow_halves d.result v⟩
  | resultHigh v => exact ⟨rfl, setHigh_halves d.result v⟩

/-! ## A reading processed (R172 to R174, R176, R187) -/

theorem Front.advance_eq_pastReading (f : Front) : f.advance = pastReading f := rfl

/-- The end cause is taken on FRONT past the reading: nothing remains there where at most one
remained before (R173). -/
theorem endCauseOf_advance (e : BatchEngine) (f : Front) (v : Verdict) :
    endCauseOf f.advance e.abortPending v = endedBy e f v := by
  have hlast : f.remaining - 1 = 0 ↔ f.remaining ≤ 1 := Nat.sub_eq_zero_iff_le
  simp only [endCauseOf, endedBy, Front.advance_eq_pastReading, pastReading, hlast,
    Bool.and_eq_true, bne_iff_ne]

/-- What a reading processed issues, with bus mastering enabled or not (R172, R187). -/
theorem processReading_bus_outbound {s : State} {f : Front} (hf : s.engine.front = some f)
    (v : Verdict) :
    (s.processReading v).bus.outbound =
      s.bus.outbound ++ if s.bus.busMaster then writeItems f.result v.bytes else [] := by
  cases hc : endCauseOf f.advance s.engine.abortPending v with
  | none => rw [processReading_goesOn hf hc, postWrite_eq]
  | some cause =>
    rw [processReading_ended hf hc, endBatch_outbound, State.mapEngine_bus, postWrite_eq]

/-- The last reading of a batch, with NEXT armed (R174). -/
theorem processReading_promotes {s : State} {f : Front} {v : Verdict}
    (hf : s.engine.front = some f) (he : endedBy s.engine f v = some .complete)
    (ha : s.engine.armed = true) :
    (s.processReading v).engine = promotedEngine s.engine
        ⟨.complete, f.processed + 1, f.remaining - 1, f.source + 48, f.result + 32, false⟩
        s.bus.busMaster s.fetchSerial ∧
      (s.processReading v).fetchSerial =
        (if s.engine.pauseRequested then s.fetchSerial else s.fetchSerial + 1) ∧
      (s.processReading v).bus.status =
        (s.bus.status ||| Source.batchEnd.mask) ||| Source.nextTaken.mask := by
  rw [processReading_ended hf ((endCauseOf_advance ..).trans he),
    endBatch_promoted (f := f.advance) rfl (by simpa using ha)]
  refine ⟨?_, ?_, ?_⟩
  · simp [promotedEngine, Front.advance_eq_pastReading, pastReading]
  · simp
  · simp

/-- A reading that ends its batch with no promotion (R173, R174). -/
theorem processReading_ends {s : State} {f : Front} {v : Verdict} {cause : EndCause}
    (hf : s.engine.front = some f) (he : endedBy s.engine f v = some cause)
    (hn : ¬(cause = .complete ∧ s.engine.armed = true)) :
    (s.processReading v).engine = endedEngine s.engine (pastReading f) cause ∧
      (s.processReading v).fetchSerial = s.fetchSerial ∧
      (s.processReading v).bus.status = s.bus.status ||| Source.batchEnd.mask := by
  rw [processReading_ended hf ((endCauseOf_advance ..).trans he),
    endBatch_ended (f := f.advance) rfl (by simpa using hn)]
  refine ⟨?_, ?_, ?_⟩
  · simp [endedEngine, Front.advance_eq_pastReading]
  · simp
  · simp

/-- A reading that leaves its batch to go on, with a pause requested (R176). -/
theorem processReading_pauses {s : State} {f : Front} {v : Verdict}
    (hf : s.engine.front = some f) (he : endedBy s.engine f v = none)
    (hp : s.engine.pauseRequested = true) :
    (s.processReading v).engine = { s.engine with
        phase := .paused
        front := some (pastReading f)
        pauseRequested := false
        flight := none } ∧
      (s.processReading v).fetchSerial = s.fetchSerial ∧
      (s.processReading v).bus.status = s.bus.status := by
  rw [processReading_goesOn hf ((endCauseOf_advance ..).trans he)]
  refine ⟨?_, ?_, ?_⟩
  · simp [hp, Front.advance_eq_pastReading]
  · simp [hp]
  · simp

/-- A reading that leaves its batch to go on, with no pause requested (R172). -/
theorem processReading_fetches {s : State} {f : Front} {v : Verdict}
    (hf : s.engine.front = some f) (he : endedBy s.engine f v = none)
    (hp : s.engine.pauseRequested = false) :
    (s.processReading v).engine = { s.engine with
        front := some (pastReading f)
        flight := some (.fetch s.fetchSerial (fetchReads s.bus.busMaster (f.source + 48))) } ∧
      (s.processReading v).fetchSerial = s.fetchSerial + 1 ∧
      (s.processReading v).bus.status = s.bus.status := by
  rw [processReading_goesOn hf ((endCauseOf_advance ..).trans he)]
  refine ⟨?_, ?_, ?_⟩
  · simp [hp, Front.advance_eq_pastReading, pastReading]
  · simp [hp]
  · simp

/-- A reading processed within an event begun in `s`, of which only the Record Unit and the statuses
have moved before (R172 to R174, R176). -/
theorem processReading_processed (s : State) (u : RecordUnit) (latched : BitVec 7) {f : Front}
    (v : Verdict) (hf : s.engine.front = some f) :
    let b : State := { s with unit := u, bus := { s.bus with status := latched } }
    ReadingProcessed s (settle s (b.processReading v)) f v latched := by
  intro b
  have hb : b.engine.front = some f := hf
  have hbatch := onlyBatch_processReading b v
  obtain ⟨hmaster, hmsi, haddress, hdata⟩ := hbatch.settings
  refine ⟨fun he ha => ?_, fun cause he hn => ?_, fun he hp => ?_, fun he hp => ?_, ?_, ?_⟩
  · simpa using processReading_promotes hb he ha
  · simpa using processReading_ends hb he hn
  · simpa using processReading_pauses hb he hp
  · simpa using processReading_fetches hb he hp
  · rw [settle_bus_outbound, settle_intOutput, hmaster, hmsi, haddress, hdata,
      processReading_bus_outbound hb]
    split
    · rfl
    · exact (List.append_nil _).symm
  · simp [hbatch.port, hbatch.gate, hbatch.readiness, hbatch.enable, hbatch.sent, hbatch.others, b]

/-! ## The events of the fetch (R169, R170; logs 2, 7, 18) -/

section
variable {s : State} {n : Nat} {reads : List LinkRead}

theorem readCompletion_passes {data : RawReading} (h : s.engine.flight = some (.fetch n reads))
    (hr : reads ≠ []) (hk : checkPasses data = true) :
    readCompletion n data s =
      { s with engine := { s.engine with flight := some (.submitted data) } } := by
  unfold readCompletion
  rw [h]
  dsimp only
  rw [if_pos ⟨rfl, hr⟩, if_pos hk]
  rfl

theorem readCompletion_badCheck {data : RawReading} (h : s.engine.flight = some (.fetch n reads))
    (hr : reads ≠ []) (hk : checkPasses data = false) :
    readCompletion n data s =
      s.processReading (Verdict.noRecord (parseReading data) .badCheck) := by
  unfold readCompletion
  simp [h, hr, hk]

/-- A completion that names a fetch kept off the link is discarded (log 18). -/
theorem readCompletion_offLink (data : RawReading) (h : s.engine.flight = some (.fetch n [])) :
    readCompletion n data s = s := by
  unfold readCompletion
  simp [h]

/-- A completion of another fetch, or with none outstanding, is discarded (log 7). -/
theorem readCompletion_ignored (data : RawReading)
    (h : ∀ reads, s.engine.flight ≠ some (.fetch n reads)) : readCompletion n data s = s := by
  unfold readCompletion
  split
  · next serial reads hflight =>
    rw [if_neg]
    rintro ⟨rfl, -⟩
    exact h reads hflight
  · rfl

theorem fetchError_ends (h : s.engine.flight = some (.fetch n reads)) :
    fetchError n s = s.endBatch .fetchError := by
  unfold fetchError
  simp [h]

theorem fetchError_ignored (h : ∀ reads, s.engine.flight ≠ some (.fetch n reads)) :
    fetchError n s = s := by
  unfold fetchError
  split
  · next serial reads hflight =>
    rw [if_neg]
    rintro rfl
    exact h reads hflight
  · rfl

theorem fetchTimeout_ends (h : s.engine.flight = some (.fetch n reads)) :
    fetchTimeout s = s.endBatch .fetchTimeout := by
  unfold fetchTimeout
  rw [h]

theorem fetchTimeout_ignored (h : ∀ n reads, s.engine.flight ≠ some (.fetch n reads)) :
    fetchTimeout s = s := by
  unfold fetchTimeout
  split
  · next serial reads hflight => exact absurd hflight (h serial reads)
  · rfl

end

/-- Settles O50: each event of the fetch outstanding, and the events that meet none. -/
theorem fetchEndsAtItsFirstEvent : Obligations.FetchEndsAtItsFirstEvent := by
  intro s hc e ended
  refine ⟨fun n reads f hflight hf => ⟨?error, ?timeout, fun hr data => ?offLink,
      fun data hr => ⟨fun hk => ?passes, fun hk => ?badCheck⟩⟩,
    fun n data h => ⟨event_quiet hc (readCompletion_ignored data h) rfl,
      event_quiet hc (fetchError_ignored h) rfl⟩,
    fun h => event_quiet hc (fetchTimeout_ignored h) rfl⟩
  case error => exact event_endBatch hc (fetchError_ends hflight) hf nofun
  case timeout => exact event_endBatch hc (fetchTimeout_ends hflight) hf nofun
  case offLink =>
    subst hr
    exact event_quiet hc (readCompletion_offLink data hflight) rfl
  case passes => exact event_quiet hc (readCompletion_passes hflight hr hk) rfl
  case badCheck =>
    refine ⟨_, event_live hc, ?_⟩
    rw [readCompletion_badCheck hflight hr hk]
    refine ⟨?_, processReading_processed s s.unit s.bus.status _ hf⟩
    rw [settle_unit, (onlyBatch_processReading _ _).unit]

/-! ## The completion of a batch reading (R172, R178) -/

theorem latchAttention_eq (s : State) (passed : Bool) :
    s.latchAttention passed =
      { s with
        bus := { s.bus with
          status := s.bus.status ||| if passed then Source.attention.mask else 0 } } := by
  cases passed
  · simp [State.latchAttention]
  · rfl

/-- A batch reading whose batch a port reset cut short has its effects alone (R178). -/
theorem completeReading_discarded {s : State} {data : RawReading}
    (h : s.unit.inProgress = some (.reading data true)) :
    completeReading s =
      { s with unit := { (carryReading s.unit data).unit with inProgress := none } }.latchAttention
        (carryReading s.unit data).attention := by
  unfold completeReading
  rw [h]
  rfl

/-- Settles O51: the split of the verdict write, the batch cut short, and the reading processed. -/
theorem batchReadingAdvancesOrEnds : Obligations.BatchReadingAdvancesOrEnds := by
  refine ⟨fun address bytes hlength => hlength ▸ writeItems_eq address bytes, ?_⟩
  intro s data hc g latched
  refine ⟨fun hp => ?cutShort, fun f hp hf => ?processed⟩
  all_goals refine ⟨_, event_live hc, ?_⟩
  case cutShort =>
    rw [completeReading_discarded hp, latchAttention_eq]
    exact ⟨by simp [g], by simp, by simp, by simp [latched, g],
      announced_settle rfl rfl rfl rfl rfl⟩
  case processed =>
    rw [completeReading_batch hp, latchAttention_eq]
    refine ⟨?_, processReading_processed s _ latched g.verdict hf⟩
    rw [settle_unit, (onlyBatch_processReading _ _).unit]

end Sys2Proof.Machine
end

section
/-! The Bus Link by its own rows: the step on the queue and the link, cold reset held and ended, and
the writes of the interrupt status and enable registers. -/

namespace Sys2Proof.Machine

open Sys2Proof

/-! ## The queue and the link (R187, log 4) -/

theorem step_command {s : State} {c : Instr} {rest : List Instr} (h : s.pending = c :: rest) :
    step s = exec c { s with pending := rest } := by
  unfold step
  rw [h]

theorem step_idle_queue {s : State} (h : s.pending = []) :
    step s = if s.inColdReset then .next s else .next s.sendOldest := by
  unfold step
  rw [h]

theorem sendOldest_nothing {s : State} (h : s.bus.outbound = []) : s.sendOldest = s := by
  unfold State.sendOldest
  rw [h]

theorem sendOldest_item {s : State} {item : LinkItem} {rest : List LinkItem}
    (h : s.bus.outbound = item :: rest) :
    s.sendOldest =
      { s with bus := { s.bus with outbound := rest, sent := s.bus.sent ++ [item] } } := by
  unfold State.sendOldest
  rw [h]

/-- Settles O1: the queue decides between the front command and the link, and the outward traffic
what the link does. -/
theorem stepRunsTheFrontCommand : Obligations.StepRunsTheFrontCommand := by
  refine ⟨fun c s => step_command rfl, fun s hp => ⟨?idles, fun item rest hc ho => ?sends⟩⟩
  all_goals rw [step_idle_queue hp]
  case idles =>
    rintro (hc | ho)
    · rw [if_pos hc]
    · rw [sendOldest_nothing ho, ite_self]
  case sends => rw [if_neg (by simp [hc]), sendOldest_item ho]

/-! ## Cold reset (R182; logs 5 to 8) -/

theorem discardOutbound_nothing {s : State} (h : s.bus.outbound = []) : s.discardOutbound = s := by
  unfold State.discardOutbound
  rw [h]

theorem discardOutbound_linkTick {s : State} (h : s.bus.outbound ≠ []) :
    s.discardOutbound.linkTick = s.linkTick + 1 := by
  unfold State.discardOutbound
  split
  · next hnil => exact absurd hnil h
  · rfl

theorem discardOutbound_settings (s : State) :
    s.discardOutbound.bus.busMaster = s.bus.busMaster ∧
      s.discardOutbound.bus.msiEnabled = s.bus.msiEnabled ∧
      s.discardOutbound.bus.msiAddress = s.bus.msiAddress ∧
      s.discardOutbound.bus.msiData = s.bus.msiData := by
  unfold State.discardOutbound
  split <;> exact ⟨rfl, rfl, rfl, rfl⟩

/-- What goes on through a cold reset: the link settings, the number of the next fetch, what has been
sent with a part of what was still to send, the index of the free value, and the queue. -/
def GoesOn (s t : State) : Prop :=
  t.bus.busMaster = s.bus.busMaster ∧ t.bus.msiEnabled = s.bus.msiEnabled ∧
    t.bus.msiAddress = s.bus.msiAddress ∧ t.bus.msiData = s.bus.msiData ∧
    t.fetchSerial = s.fetchSerial ∧
    (s.bus.outbound = [] → t.bus.sent = s.bus.sent ∧ t.linkTick = s.linkTick) ∧
    (s.bus.outbound ≠ [] → t.linkTick = s.linkTick + 1 ∧
      ∃ n, t.bus.sent = s.bus.sent ++ s.bus.outbound.take n) ∧
    t.pending = s.pending

theorem goesOn_discardOutbound (s : State) : GoesOn s s.discardOutbound := by
  obtain ⟨hmaster, hmsi, haddress, hdata⟩ := discardOutbound_settings s
  refine ⟨hmaster, hmsi, haddress, hdata, State.discardOutbound_fetchSerial s, fun ho => ?_,
    fun ho => ⟨discardOutbound_linkTick ho, discardOutbound_sent s⟩,
    State.discardOutbound_pending s⟩
  rw [discardOutbound_nothing ho]
  exact ⟨rfl, rfl⟩

/-- Every block after a cold reset, held or ended, is at its reset value, and the rest of the part is
as the discarding of the outward traffic leaves it. -/
theorem coldValues_resets (held : Bool) (s : State) :
    let t := coldValues held s
    t.inColdReset = held ∧ t.readiness = .initialising ∧ t.unit = RecordUnit.reset ∧
      t.port = CommandPort.reset ∧ t.gate = .closed ∧ t.engine = BatchEngine.reset ∧
      t.bus.status = 0 ∧ t.bus.enable = 0 ∧ t.bus.outbound = [] ∧ GoesOn s t :=
  ⟨rfl, rfl, rfl, rfl, rfl, rfl, rfl, rfl, rfl, goesOn_discardOutbound s⟩

theorem execColdResetEnd_held {s : State} (hc : s.inColdReset = true) :
    execColdResetEnd s = .next (coldValues false s) := if_pos hc

/-- Settles O4: both commands leave the same values but for cold reset being held. -/
theorem coldResetEndsEverything : Obligations.ColdResetEndsEverything := fun s =>
  ⟨⟨_, rfl, coldValues_resets true s⟩, fun hc =>
    ⟨⟨_, execColdResetEnd_held hc, coldValues_resets false s⟩, fun _ => exec_held hc⟩⟩

/-! ## The interrupt registers (R183 to R185) -/

theorem intOutput_iff (s : State) :
    s.intOutput = true ↔ ∃ i : Fin 7, s.bus.status[i] = true ∧ s.bus.enable[i] = true := by
  have hoff : s.bus.status &&& s.bus.enable = 0 ↔
      ∀ i : Fin 7, ¬(s.bus.status[i] = true ∧ s.bus.enable[i] = true) := by
    refine ⟨fun h i => ?_, fun h => BitVec.eq_of_getElem_eq fun i hi => ?_⟩
    · simpa using congrArg (fun v : BitVec 7 => v[i]) h
    · simpa using h ⟨i, hi⟩
  unfold State.intOutput BusLink.output
  rw [bne_iff_ne, Ne, hoff, not_forall_not]

/-- The state with other statuses and enables. -/
def State.withInterrupts (s : State) (status enable : BitVec 7) : State :=
  { s with bus := { s.bus with status := status, enable := enable } }

theorem exec_interruptStatusClear {s : State} (value : Word) (hc : s.inColdReset = false) :
    exec (.interruptStatusClear value) s = .next (settle s
      (s.withInterrupts (s.bus.status &&& ~~~(value.setWidth 7)) s.bus.enable)) :=
  event_live hc

theorem exec_interruptEnableWrite {s : State} (value : Word) (hc : s.inColdReset = false) :
    exec (.interruptEnableWrite value) s =
      .next (settle s (s.withInterrupts s.bus.status (value.setWidth 7))) :=
  event_live hc

/-- What a write of statuses or enables does beside them: it moves the interrupt output and announces
its passage. -/
def MovesOutput (s t : State) : Prop :=
  t.unit = s.unit ∧ t.port = s.port ∧ t.gate = s.gate ∧ t.engine = s.engine ∧
    t.readiness = s.readiness ∧ t.bus.sent = s.bus.sent ∧ Announced s t ∧
    t.pending = s.pending ∧
    (t.intOutput = true ↔ ∃ i : Fin 7, t.bus.status[i] = true ∧ t.bus.enable[i] = true)

theorem movesOutput_withInterrupts (s : State) (status enable : BitVec 7) :
    MovesOutput s (settle s (s.withInterrupts status enable)) :=
  ⟨settle_unit _ _, settle_port _ _, settle_gate _ _, settle_engine _ _, settle_readiness _ _,
    settle_bus_sent _ _, announced_settle rfl rfl rfl rfl rfl, settle_pending _ _, intOutput_iff _⟩

/-- Settles O52: each write is an event that moves statuses or enables alone. -/
theorem interruptWritesMoveTheOutput : Obligations.InterruptWritesMoveTheOutput := by
  intro s value hc others
  refine ⟨⟨_, exec_interruptStatusClear value hc, movesOutput_withInterrupts s _ _,
      settle_bus_enable _ _, fun i => ?cleared⟩,
    ⟨_, exec_interruptEnableWrite value hc, movesOutput_withInterrupts s _ _,
      settle_bus_status _ _, fun i => ?enabled⟩⟩
  case cleared =>
    rw [settle_bus_status]
    simp [State.withInterrupts]
  case enabled =>
    rw [settle_bus_enable]
    simp [State.withInterrupts]

end Sys2Proof.Machine
end

section
/-! The request block (R193): what it holds, and that a request placed in it is the request it then
holds. -/

namespace Sys2Proof.Machine

open Sys2Proof

/-- What any block holds stands at R193's offsets. -/
theorem block_showsRequest (block : Vector Byte 64) :
    ShowsHeader block.toList (parseHeader block.toList) ∧
      ShowsRequest block.toList (parseOp block.toList) :=
  ⟨parseHeader_shows _, parseOp_shows _ block.length_toList⟩

/-- Settles O7: a block is read at the offsets of R193, where the fields of a request placed stand. -/
theorem placedRequestIsTheOneOffered : Obligations.PlacedRequestIsTheOneOffered :=
  ⟨block_showsRequest, fun block h op hk =>
    ⟨parseOp_placed block h op hk, parseHeader_placed block h op⟩⟩

end Sys2Proof.Machine
end

section
/-! The arbiter of the Record Unit: the client a grant goes to, and the state each grant leaves. -/

namespace Sys2Proof.Machine

open Sys2Proof

/-! ## The choice of R15 -/

/-- A sweep that waits and has seen 8 foreground grants (R15). -/
def State.sweepOwed (s : State) : Prop :=
  s.unit.sweep.running = true ∧ 8 ≤ s.unit.arbiter.sweepCount

/-- A survey that waits and has seen 8 foreground grants (R15). -/
def State.surveyOwed (s : State) : Prop :=
  s.unit.survey.state = .running ∧ 8 ≤ s.unit.arbiter.surveyCount

theorem sweepOwed_iff (s : State) :
    (s.unit.sweepWaits && decide (8 ≤ s.unit.arbiter.sweepCount)) = true ↔ s.sweepOwed := by
  simp [State.sweepOwed, RecordUnit.sweepWaits]

theorem surveyOwed_iff (s : State) :
    (s.unit.surveyWaits && decide (8 ≤ s.unit.arbiter.surveyCount)) = true ↔ s.surveyOwed := by
  simp [State.surveyOwed, RecordUnit.surveyWaits]

theorem surveyWaits_iff (u : RecordUnit) : u.surveyWaits = true ↔ u.survey.state = .running :=
  decide_eq_true_iff

/-- Of the walkers that ask, the sweep goes alone or second to the survey. -/
theorem pickBackground_eq_sweep {last : Background} {sweep survey : Bool} :
    pickBackground last sweep survey = some .sweep ↔
      sweep = true ∧ (¬survey = true ∨ last = .survey) := by
  cases last <;> cases sweep <;> cases survey <;> simp [pickBackground]

theorem pickBackground_eq_survey {last : Background} {sweep survey : Bool} :
    pickBackground last sweep survey = some .survey ↔
      survey = true ∧ (¬sweep = true ∨ last = .sweep) := by
  cases last <;> cases sweep <;> cases survey <;> simp [pickBackground]

theorem pickBackground_eq_none {last : Background} {sweep survey : Bool} :
    pickBackground last sweep survey = none ↔ ¬sweep = true ∧ ¬survey = true := by
  cases last <;> cases sweep <;> cases survey <;> simp [pickBackground]

theorem pickForeground_eq_port {last : Foreground} {port engine : Bool} :
    pickForeground last port engine = some .commandPort ↔
      port = true ∧ (¬engine = true ∨ last = .batchEngine) := by
  cases last <;> cases port <;> cases engine <;> simp [pickForeground]

theorem pickForeground_eq_engine {last : Foreground} {port engine : Bool} :
    pickForeground last port engine = some .batchEngine ↔
      engine = true ∧ (¬port = true ∨ last = .commandPort) := by
  cases last <;> cases port <;> cases engine <;> simp [pickForeground]

theorem pickForeground_eq_none {last : Foreground} {port engine : Bool} :
    pickForeground last port engine = none ↔ ¬port = true ∧ ¬engine = true := by
  cases last <;> cases port <;> cases engine <;> simp [pickForeground]

section Choice

variable {s : State}

/-- An owed walker goes first (R15). -/
theorem nextClient_sweepOwed (h : s.sweepOwed)
    (hv : ¬s.surveyOwed ∨ s.unit.arbiter.lastBackground = .survey) :
    s.nextClient = some .sweep := by
  unfold State.nextClient chooseClient
  rw [pickBackground_eq_sweep.2 ⟨(sweepOwed_iff s).2 h, by rwa [surveyOwed_iff]⟩, Option.some_or]

theorem nextClient_surveyOwed (h : s.surveyOwed)
    (hv : ¬s.sweepOwed ∨ s.unit.arbiter.lastBackground = .sweep) :
    s.nextClient = some .survey := by
  unfold State.nextClient chooseClient
  rw [pickBackground_eq_survey.2 ⟨(surveyOwed_iff s).2 h, by rwa [sweepOwed_iff]⟩, Option.some_or]

/-- With no walker owed the foreground clients go before the background ones (R15). -/
theorem nextClient_noneOwed (hs : ¬s.sweepOwed) (hv : ¬s.surveyOwed) :
    s.nextClient =
      (pickForeground s.unit.arbiter.lastForeground s.waitingRequest.isSome
        s.waitingReading.isSome).or
      (pickBackground s.unit.arbiter.lastBackground s.unit.sweepWaits s.unit.surveyWaits) := by
  unfold State.nextClient chooseClient
  rw [pickBackground_eq_none.2 ⟨by rwa [sweepOwed_iff], by rwa [surveyOwed_iff]⟩, Option.none_or]

/-- Only a sweep that waits is granted. -/
theorem sweepWaits_of_nextClient (h : s.nextClient = some .sweep) : s.unit.sweepWaits = true := by
  unfold State.nextClient chooseClient at h
  obtain howed | ⟨-, hrest⟩ := Option.or_eq_some_iff.1 h
  · exact (Bool.and_eq_true_iff.1 (pickBackground_eq_sweep.1 howed).1).1
  · obtain hfore | ⟨-, hback⟩ := Option.or_eq_some_iff.1 hrest
    · unfold pickForeground at hfore
      repeat' split at hfore
      all_goals cases hfore
    · exact (pickBackground_eq_sweep.1 hback).1

/-- Only a survey that waits is granted. -/
theorem surveyWaits_of_nextClient (h : s.nextClient = some .survey) :
    s.unit.surveyWaits = true := by
  unfold State.nextClient chooseClient at h
  obtain howed | ⟨-, hrest⟩ := Option.or_eq_some_iff.1 h
  · exact (Bool.and_eq_true_iff.1 (pickBackground_eq_survey.1 howed).1).1
  · obtain hfore | ⟨-, hback⟩ := Option.or_eq_some_iff.1 hrest
    · unfold pickForeground at hfore
      repeat' split at hfore
      all_goals cases hfore
    · exact (pickBackground_eq_survey.1 hback).1

end Choice

/-! ## The clients that wait (R14) -/

theorem waitingRequest_eq_some {s : State} {req : UnitRequest} :
    s.waitingRequest = some req ↔ s.port.phase = .waiting req := by
  unfold State.waitingRequest
  cases s.port.phase <;> simp

theorem waitingReading_eq_some {s : State} {data : RawReading} :
    s.waitingReading = some data ↔ s.engine.flight = some (.submitted data) := by
  unfold State.waitingReading
  split <;> simp_all

theorem waitingRequest_isSome_eq_false {s : State} (h : ∀ req, s.port.phase ≠ .waiting req) :
    ¬s.waitingRequest.isSome = true := by
  rw [Option.isSome_iff_exists]
  rintro ⟨req, hreq⟩
  exact h req (waitingRequest_eq_some.1 hreq)

theorem waitingReading_isSome_eq_false {s : State}
    (h : ∀ data, s.engine.flight ≠ some (.submitted data)) : ¬s.waitingReading.isSome = true := by
  rw [Option.isSome_iff_exists]
  rintro ⟨data, hdata⟩
  exact h data (waitingReading_eq_some.1 hdata)

/-! ## The grant (R15, R16) -/

/-- What the grant can do: nothing, or one client's request granted, the Record Unit being free. -/
inductive Granted (s : State) : State → Prop
  | none : Granted s s
  | command (hr : s.readiness = .ready) (hn : s.unit.inProgress = none) {req : UnitRequest}
      (hp : s.port.phase = .waiting req) :
      Granted s
        { s with
          unit := s.unit.start (.command req false) s.afterGrant
          port := { s.port with phase := .granted } }
  | reading (hr : s.readiness = .ready) (hn : s.unit.inProgress = none) {data : RawReading}
      (hf : s.engine.flight = some (.submitted data)) :
      Granted s
        { s with
          unit := s.unit.start (.reading data false)
            (s.unit.arbiter.afterForeground .batchEngine s.unit.sweepWaits s.unit.surveyWaits)
          engine := { s.engine with flight := some .granted } }
  | sweep (hr : s.readiness = .ready) (hn : s.unit.inProgress = none)
      (hw : s.unit.sweep.running = true) :
      Granted s
        { s with
          unit := s.unit.start .sweepStep
            { s.unit.arbiter with sweepCount := 0, lastBackground := .sweep } }
  | survey (hr : s.readiness = .ready) (hn : s.unit.inProgress = none)
      (hw : s.unit.survey.state = .running) :
      Granted s
        { s with
          unit := s.unit.start .surveyStep
            { s.unit.arbiter with surveyCount := 0, lastBackground := .survey } }

theorem grant_granted (s : State) : Granted s (grant s) := by
  unfold grant
  split
  · exact .none
  rename_i hfree
  obtain ⟨hready, hbusy⟩ := not_or.1 hfree
  have hr : s.readiness = .ready := by
    cases h : s.readiness
    · exact absurd h hready
    · rfl
  have hn : s.unit.inProgress = none := Option.not_isSome_iff_eq_none.1 hbusy
  dsimp only
  split
  · next hreq => exact .command hr hn (waitingRequest_eq_some.1 hreq)
  · next hdata => exact .reading hr hn (waitingReading_eq_some.1 hdata)
  · next hc => exact .sweep hr hn (sweepWaits_of_nextClient hc)
  · next hc => exact .survey hr hn ((surveyWaits_iff _).1 (surveyWaits_of_nextClient hc))
  · exact .none

section Equations

variable {s : State} (hr : s.readiness = .ready) (hn : s.unit.inProgress = none)

theorem grant_none_made (h : s.readiness = .initialising ∨ s.unit.inProgress ≠ none) :
    grant s = s := by
  unfold grant
  exact if_pos (h.imp_right Option.isSome_iff_ne_none.2)

include hr hn

theorem grant_port {req : UnitRequest} (hc : s.nextClient = some .commandPort)
    (hp : s.port.phase = .waiting req) :
    grant s =
      { s with
        unit := s.unit.start (.command req false) s.afterGrant
        port := { s.port with phase := .granted } } := by
  unfold grant
  rw [if_neg (by simp [hr, hn]), hc, waitingRequest_eq_some.2 hp]
  rfl

theorem grant_reading {data : RawReading} (hc : s.nextClient = some .batchEngine)
    (hf : s.engine.flight = some (.submitted data)) :
    grant s =
      { s with
        unit := s.unit.start (.reading data false)
          (s.unit.arbiter.afterForeground .batchEngine s.unit.sweepWaits s.unit.surveyWaits)
        engine := { s.engine with flight := some .granted } } := by
  unfold grant
  rw [if_neg (by simp [hr, hn]), hc, waitingReading_eq_some.2 hf]

theorem grant_sweep (hc : s.nextClient = some .sweep) :
    grant s =
      { s with
        unit := s.unit.start .sweepStep
          { s.unit.arbiter with sweepCount := 0, lastBackground := .sweep } } := by
  unfold grant
  rw [if_neg (by simp [hr, hn]), hc]

theorem grant_survey (hc : s.nextClient = some .survey) :
    grant s =
      { s with
        unit := s.unit.start .surveyStep
          { s.unit.arbiter with surveyCount := 0, lastBackground := .survey } } := by
  unfold grant
  rw [if_neg (by simp [hr, hn]), hc]

theorem grant_nobody (hc : s.nextClient = none) : grant s = s := by
  unfold grant
  rw [if_neg (by simp [hr, hn]), hc]

end Equations

/-- A grant sends no message, as it latches nothing. -/
theorem exec_grant {s t : State} (hc : s.inColdReset = false) (hg : grant s = t)
    (hb : t.bus = s.bus) : exec .recordUnitGrant s = .next t :=
  event_quiet hc hg (congrArg BusLink.output hb.symm)

/-- The arbiter after a foreground grant, each waiting walker's count one more up to 8 (R15). -/
theorem afterForeground_eq (s : State) (client : Foreground) :
    s.unit.arbiter.afterForeground client s.unit.sweepWaits s.unit.surveyWaits =
      { s.unit.arbiter with
        sweepCount :=
          if s.unit.sweep.running then min 8 (s.unit.arbiter.sweepCount + 1)
          else s.unit.arbiter.sweepCount
        surveyCount :=
          if s.unit.survey.state = .running then min 8 (s.unit.arbiter.surveyCount + 1)
          else s.unit.arbiter.surveyCount
        lastForeground := client } := by
  have hsurvey : countGrant s.unit.surveyWaits s.unit.arbiter.surveyCount =
      if s.unit.survey.state = .running then min 8 (s.unit.arbiter.surveyCount + 1)
      else s.unit.arbiter.surveyCount := by
    unfold countGrant
    simp only [surveyWaits_iff]
  unfold Arbiter.afterForeground
  rw [hsurvey]
  rfl

/-- Settles O45: owed walkers, then foreground clients, then walkers, each pair in its turn. -/
theorem grantFollowsTheArbiter : Obligations.GrantFollowsTheArbiter := by
  intro s hc
  refine ⟨fun h => exec_grant hc (grant_none_made h) rfl, fun hr hn => ?_⟩
  intro a sweepOwed surveyOwed counted toSweep toSurvey noPort noReading
  have sweepGranted (h : s.nextClient = some .sweep) : toSweep :=
    exec_grant hc (grant_sweep hr hn h) rfl
  have surveyGranted (h : s.nextClient = some .survey) : toSurvey :=
    exec_grant hc (grant_survey hr hn h) rfl
  refine ⟨fun ho hv => sweepGranted (nextClient_sweepOwed ho hv),
    fun ho hv => surveyGranted (nextClient_surveyOwed ho hv), fun hs hv => ?_⟩
  have hnext := nextClient_noneOwed (s := s) hs hv
  refine ⟨fun req hp he => ?port, fun data hf he => ?reading, fun hp hf => ?walkers⟩
  case port =>
    have hpick := pickForeground_eq_port.2
      ⟨Option.isSome_iff_exists.2 ⟨req, waitingRequest_eq_some.2 hp⟩,
        he.imp_left waitingReading_isSome_eq_false⟩
    rw [hpick, Option.some_or] at hnext
    have hg := grant_port hr hn hnext hp
    unfold State.afterGrant at hg
    rw [afterForeground_eq] at hg
    exact exec_grant hc hg rfl
  case reading =>
    have hpick := pickForeground_eq_engine.2
      ⟨Option.isSome_iff_exists.2 ⟨data, waitingReading_eq_some.2 hf⟩,
        he.imp_left waitingRequest_isSome_eq_false⟩
    rw [hpick, Option.some_or] at hnext
    have hg := grant_reading hr hn hnext hf
    rw [afterForeground_eq] at hg
    exact exec_grant hc hg rfl
  case walkers =>
    rw [pickForeground_eq_none.2
      ⟨waitingRequest_isSome_eq_false hp, waitingReading_isSome_eq_false hf⟩, Option.none_or]
      at hnext
    refine ⟨fun hw ho => sweepGranted (hnext.trans (pickBackground_eq_sweep.2 ⟨hw, ?_⟩)),
      fun hw ho => surveyGranted (hnext.trans (pickBackground_eq_survey.2 ⟨?_, ?_⟩)),
      fun hw hv => exec_grant hc (grant_nobody hr hn (hnext.trans (pickBackground_eq_none.2
        ⟨?_, ?_⟩))) rfl⟩
    · exact ho.imp_left (mt (surveyWaits_iff _).1)
    · exact (surveyWaits_iff _).2 hw
    · exact ho.imp_left Bool.eq_false_iff.1
    · exact Bool.eq_false_iff.1 hw
    · exact mt (surveyWaits_iff _).1 hv

end Sys2Proof.Machine
end

section
/-! The Batch Engine kept in order: promotion, the end of a batch and the reading processed each leave
an engine in order, so the engine's own actions do. -/

namespace Sys2Proof.Machine

open Sys2Proof

/-! ## The engine by itself (R164, R167 to R175) -/

/-- What `EngineInv` says of the engine and the number of the next fetch alone. -/
structure EngineOk (e : BatchEngine) (serial : Nat) : Prop where
  front_iff : e.front.isSome = true ↔ e.phase ≠ .idle
  counters : ∀ f, e.front = some f → f.processed + f.remaining = f.count.toNat ∧ 0 < f.remaining
  idle_clear : e.phase = .idle →
    e.armed = false ∧ e.pauseRequested = false ∧ e.abortPending = false
  paused_clear : e.phase = .paused → e.pauseRequested = false ∧ e.abortPending = false
  flight_iff : e.flight.isSome = true ↔ e.phase = .running
  abort_granted : e.abortPending = true → e.flight = some .granted
  armed_good : e.armed = true →
    e.next.count ≠ 0 ∧ aligned16 e.next.source = true ∧ aligned16 e.next.result = true
  serial_given : ∀ n reads, e.flight = some (.fetch n reads) → n < serial

theorem EngineInv.ok {s : State} (h : EngineInv s) : EngineOk s.engine s.fetchSerial :=
  ⟨h.front_iff, h.counters, h.idle_clear, h.paused_clear, h.flight_iff, h.abort_granted,
    h.armed_good, h.serial_given⟩

/-- The rest of `EngineInv`: the granted reading is the one under way, and no batch runs while
INITIALISING. -/
theorem EngineOk.inv {s : State} (h : EngineOk s.engine s.fetchSerial)
    (hg : s.engine.flight = some .granted ↔ ∃ data, s.unit.inProgress = some (.reading data false))
    (hi : s.readiness = .initialising → s.engine.phase = .idle) : EngineInv s :=
  ⟨h.front_iff, h.counters, h.idle_clear, h.paused_clear, h.flight_iff, h.abort_granted, hg,
    h.armed_good, h.serial_given, hi⟩

/-- An engine in order with no batch. -/
theorem engineOk_idle {e : BatchEngine} (serial : Nat) (hphase : e.phase = .idle)
    (hfront : e.front = none) (hflight : e.flight = none)
    (hclear : e.armed = false ∧ e.pauseRequested = false ∧ e.abortPending = false) :
    EngineOk e serial := by
  obtain ⟨harmed, hpause, habort⟩ := hclear
  constructor <;> simp [hphase, hfront, hflight, harmed, hpause, habort]

theorem engineOk_reset (serial : Nat) : EngineOk BatchEngine.reset serial :=
  engineOk_idle serial rfl rfl rfl ⟨rfl, rfl, rfl⟩

theorem engineOk_ended (e : BatchEngine) (f : Front) (cause : EndCause) (serial : Nat) :
    EngineOk (endedEngine e f cause) serial :=
  engineOk_idle serial rfl rfl rfl ⟨rfl, rfl, rfl⟩

/-- A descriptor with readings to process promotes to an engine in order (R167). -/
theorem engineOk_promoted {e : BatchEngine} (hcount : e.next.count ≠ 0) (report : EndReport)
    (busMaster : Bool) (serial : Nat) :
    EngineOk (promotedEngine e report busMaster serial)
      (if e.pauseRequested then serial else serial + 1) := by
  have hpos : 0 < e.next.count.toNat :=
    Nat.pos_of_ne_zero fun h => hcount (BitVec.eq_of_toNat_eq h)
  unfold promotedEngine
  cases e.pauseRequested <;> constructor <;> simp [hpos]

/-- A batch that goes on after a reading: paused, or with its next fetch out (R172, R176). -/
theorem EngineOk.goesOn {e : BatchEngine} {serial : Nat} (h : EngineOk e serial) {f : Front}
    (hf : e.front = some f) (hr : e.phase = .running) (hleft : 1 < f.remaining)
    (ha : e.abortPending = false) (reads : List LinkRead) :
    EngineOk
      { e with
        phase := if e.pauseRequested then .paused else e.phase
        front := some f.advance
        pauseRequested := false
        flight := if e.pauseRequested then none else some (.fetch serial reads) }
      (if e.pauseRequested then serial else serial + 1) := by
  have hcounts := (h.counters f hf).1
  have hadvanced : f.processed + 1 + (f.remaining - 1) = f.count.toNat ∧ 0 < f.remaining - 1 := by
    omega
  have hgood := h.armed_good
  cases e.pauseRequested <;> constructor <;> simp_all [Front.advance]

/-! ## The end of a batch and the reading processed (R172 to R176) -/

/-- An engine in order whose reading in flight, if any, is not granted. -/
def EngineUngranted (s : State) : Prop :=
  EngineOk s.engine s.fetchSerial ∧ s.engine.flight ≠ some .granted

/-- The end of a batch drops it, or promotes an armed NEXT that ARM accepted (R174). -/
theorem engineUngranted_endBatch {s : State} {f : Front} (hf : s.engine.front = some f)
    (hgood : s.engine.armed = true → s.engine.next.count ≠ 0) (cause : EndCause) :
    EngineUngranted (s.endBatch cause) := by
  by_cases hp : cause = .complete ∧ s.engine.armed = true
  · obtain ⟨rfl, harmed⟩ := hp
    rw [endBatch_promoted hf harmed]
    refine ⟨engineOk_promoted (hgood harmed) _ _ _, ?_⟩
    unfold promotedEngine
    cases s.engine.pauseRequested <;> simp
  · rw [endBatch_ended hf fun hc => Bool.eq_false_iff.2 fun harmed => hp ⟨hc, harmed⟩]
    exact ⟨engineOk_ended _ _ _ _, nofun⟩

/-- A batch goes on only with readings left and no abort pending (R173). -/
theorem endCauseOf_none {f : Front} {abortPending : Bool} {v : Verdict}
    (h : endCauseOf f.advance abortPending v = none) : abortPending = false ∧ 1 < f.remaining := by
  unfold endCauseOf Front.advance at h
  grind

/-- A reading processed leaves an engine in order with no granted reading (R172). -/
theorem engineUngranted_processReading {s : State} (h : EngineOk s.engine s.fetchSerial)
    {f : Front} (hf : s.engine.front = some f) (hr : s.engine.phase = .running) (v : Verdict) :
    EngineUngranted (s.processReading v) := by
  cases hc : endCauseOf f.advance s.engine.abortPending v with
  | some cause =>
    rw [processReading_ended hf hc]
    exact engineUngranted_endBatch (f := f.advance) rfl
      (by simpa using fun ha => (h.armed_good ha).1) cause
  | none =>
    obtain ⟨ha, hleft⟩ := endCauseOf_none hc
    rw [processReading_goesOn hf hc]
    refine ⟨h.goesOn hf hr hleft ha _, ?_⟩
    cases s.engine.pauseRequested <;> simp

/-! ## The engine's own actions (R165 to R176) -/

theorem EngineInv.phase_of_front {s : State} (h : EngineInv s) (hp : s.engine.phase ≠ .idle) :
    ∃ f, s.engine.front = some f :=
  Option.isSome_iff_exists.1 (h.front_iff.2 hp)

theorem EngineInv.running_of_flight {s : State} (h : EngineInv s) {flight : Flight}
    (hf : s.engine.flight = some flight) : s.engine.phase = .running :=
  h.flight_iff.1 (by rw [hf]; rfl)

/-- The invariant rests on the engine, the number of the next fetch, the request under way and the
readiness. -/
theorem EngineInv.congr {s t : State} (h : EngineInv s) (he : t.engine = s.engine)
    (hn : t.fetchSerial = s.fetchSerial) (hp : t.unit.inProgress = s.unit.inProgress)
    (hr : t.readiness = s.readiness) : EngineInv t := by
  refine EngineOk.inv ?_ ?_ ?_
  · rw [he, hn]
    exact h.ok
  · rw [he, hp]
    exact h.granted_iff
  · rw [he, hr]
    exact h.initialising_idle

/-- A change of the engine that grants and gives up no reading. -/
theorem EngineInv.changed {s : State} (h : EngineInv s) {e : BatchEngine}
    (hok : EngineOk e s.fetchSerial)
    (hg : e.flight = some .granted ↔ s.engine.flight = some .granted)
    (hi : s.engine.phase = .idle → e.phase = .idle) : EngineInv { s with engine := e } :=
  hok.inv (hg.trans h.granted_iff) fun hr => hi (h.initialising_idle hr)

/-- An action of the engine on a batch with no granted reading, which leaves none either. -/
theorem EngineInv.ungranted {s t : State} (h : EngineInv s) (hb : OnlyBatch s t)
    (hp : s.readiness = .initialising → t.engine.phase = .idle)
    (hg : s.engine.flight ≠ some .granted) (ht : EngineUngranted t) : EngineInv t := by
  refine ht.1.inv ⟨fun hflight => absurd hflight ht.2, fun hreading => ?_⟩ ?_
  · rw [hb.unit] at hreading
    exact absurd (h.granted_iff.2 hreading) hg
  · rw [hb.readiness]
    exact hp

/-- A batch that ends otherwise than on COMPLETE, with no reading granted (R169, R175). -/
theorem EngineInv.endBatch {s : State} (h : EngineInv s) (hp : s.engine.phase ≠ .idle)
    (hg : s.engine.flight ≠ some .granted) (cause : EndCause) : EngineInv (s.endBatch cause) := by
  obtain ⟨f, hf⟩ := h.phase_of_front hp
  exact h.ungranted (onlyBatch_endBatch s cause) (fun hr => absurd (h.initialising_idle hr) hp) hg
    (engineUngranted_endBatch hf (fun ha => (h.armed_good ha).1) cause)

theorem EngineInv.writeNext {s : State} (h : EngineInv s) (w : NextWrite) :
    EngineInv (writeNext w s) := by
  cases ha : s.engine.armed with
  | true => rwa [writeNext_armed ha]
  | false =>
    rw [writeNext_stores ha]
    refine h.changed ?_ .rfl id
    exact ⟨h.front_iff, h.counters, h.idle_clear, h.paused_clear, h.flight_iff, h.abort_granted,
      fun harmed => absurd harmed (by simp [ha]), h.serial_given⟩

theorem EngineInv.setArmRefused {s : State} (h : EngineInv s) (refused : Bool) :
    EngineInv { s with engine := { s.engine with armRefused := refused } } :=
  h.changed ⟨h.front_iff, h.counters, h.idle_clear, h.paused_clear, h.flight_iff, h.abort_granted,
    h.armed_good, h.serial_given⟩ .rfl id

theorem EngineInv.setPause {s : State} (h : EngineInv s) (hr : s.engine.phase = .running)
    (requested : Bool) :
    EngineInv { s with engine := { s.engine with pauseRequested := requested } } := by
  refine h.changed ?_ .rfl id
  exact ⟨h.front_iff, h.counters, fun hidle => absurd (hr.symm.trans hidle) nofun,
    fun hpaused => absurd (hr.symm.trans hpaused) nofun, h.flight_iff, h.abort_granted,
    h.armed_good, h.serial_given⟩

theorem EngineInv.abortBatch {s : State} (h : EngineInv s) : EngineInv (abortBatch s) := by
  by_cases hends : s.engine.phase = .paused ∨
      s.engine.phase = .running ∧ s.engine.abortPending = false ∧ s.engine.flight ≠ some .granted
  case pos =>
    rw [abortBatch_ends hends]
    refine h.endBatch ?_ ?_ .aborted
    · obtain hp | ⟨hp, -⟩ := hends <;> simp [hp]
    · obtain hp | ⟨-, -, hg⟩ := hends
      · exact fun hg => absurd (hp.symm.trans (h.running_of_flight hg)) nofun
      · exact hg
  case neg =>
    by_cases hpends : s.engine.phase = .running ∧ s.engine.abortPending = false
    · obtain ⟨hr, ha⟩ := hpends
      have hg : s.engine.flight = some .granted :=
        not_not.1 fun hg => hends (.inr ⟨hr, ha, hg⟩)
      rw [abortBatch_pends hr ha hg]
      refine h.changed ?_ .rfl id
      exact ⟨h.front_iff, h.counters, fun hidle => absurd (hr.symm.trans hidle) nofun,
        fun hpaused => absurd (hr.symm.trans hpaused) nofun, h.flight_iff, fun _ => hg,
        h.armed_good, h.serial_given⟩
    · rwa [abortBatch_ignored]
      cases hp : s.engine.phase with
      | idle => exact .inl rfl
      | running => exact .inr ⟨rfl, Bool.eq_true_of_not_eq_false fun ha => hpends ⟨hp, ha⟩⟩
      | paused => exact absurd (.inl hp) hends

theorem EngineInv.pauseBatch {s : State} (h : EngineInv s) : EngineInv (pauseBatch s) := by
  by_cases hr : s.engine.phase = .running
  · rw [pauseBatch_running hr]
    exact h.setPause hr true
  · rwa [pauseBatch_ignored hr]

theorem EngineInv.resumeBatch {s : State} (h : EngineInv s) : EngineInv (resumeBatch s) := by
  cases hp : s.engine.phase with
  | idle => rwa [resumeBatch_idle hp]
  | running =>
    rw [resumeBatch_running hp]
    exact h.setPause hp false
  | paused =>
    obtain ⟨f, hf⟩ := h.phase_of_front (by simp [hp])
    obtain ⟨hpause, habort⟩ := h.paused_clear hp
    have hg : s.engine.flight ≠ some .granted :=
      fun hg => absurd (hp.symm.trans (h.running_of_flight hg)) nofun
    have hready : s.readiness ≠ .initialising :=
      fun hr => absurd (hp.symm.trans (h.initialising_idle hr)) nofun
    refine h.ungranted (BatchActs.resumed s).onlyBatch (fun hr => absurd hr hready) hg ?_
    rw [resumeBatch_paused hp hf]
    refine ⟨⟨by simp [hf], h.counters, nofun, nofun, by simp, by simp [habort], h.armed_good, ?_⟩,
      nofun⟩
    rintro n reads hfetch
    cases hfetch
    exact Nat.lt_succ_self _

/-- An accepted ARM puts the invariant's condition on the descriptor armed (R165, R166). -/
theorem EngineInv.armNext {s : State} (h : EngineInv s) : EngineInv (armNext s) := by
  cases hrefused : armIsRefused s with
  | true =>
    rw [armNext_refused hrefused]
    exact h.setArmRefused true
  | false =>
    obtain ⟨hready, -, hcount, hsource, hresult⟩ := (armIsRefused_eq_false_iff s).1 hrefused
    by_cases hp : s.engine.phase = .idle
    · have hg : s.engine.flight ≠ some .granted :=
        fun hg => absurd (hp.symm.trans (h.running_of_flight hg)) nofun
      refine h.ungranted (BatchActs.armed s).onlyBatch (by simp [hready]) hg ?_
      rw [armNext_promotes hrefused hp]
      refine ⟨engineOk_promoted hcount _ _ _, ?_⟩
      unfold promotedEngine
      cases s.engine.pauseRequested <;> simp
    · rw [armNext_arms hrefused hp]
      refine h.changed ?_ .rfl id
      exact ⟨h.front_iff, h.counters, fun hidle => absurd hidle hp, h.paused_clear, h.flight_iff,
        h.abort_granted, fun _ => ⟨hcount, beq_iff_eq.2 hsource, beq_iff_eq.2 hresult⟩,
        h.serial_given⟩

theorem EngineInv.readCompletion {s : State} (h : EngineInv s) (n : Nat) (data : RawReading) :
    EngineInv (readCompletion n data s) := by
  by_cases hfetch : ∃ reads, s.engine.flight = some (.fetch n reads) ∧ reads ≠ []
  case neg =>
    by_cases hoff : s.engine.flight = some (.fetch n [])
    · rwa [readCompletion_offLink data hoff]
    · rwa [readCompletion_ignored data]
      rintro reads hreads
      by_cases hnil : reads = []
      · exact hoff (hnil ▸ hreads)
      · exact hfetch ⟨reads, hreads, hnil⟩
  case pos =>
    obtain ⟨reads, hflight, hreads⟩ := hfetch
    have hr := h.running_of_flight hflight
    have hg : s.engine.flight ≠ some .granted := by simp [hflight]
    cases hk : checkPasses data with
    | true =>
      rw [readCompletion_passes hflight hreads hk]
      refine h.changed ?_ (by simp [hflight]) id
      exact ⟨h.front_iff, h.counters, h.idle_clear, h.paused_clear, by simp [hr],
        fun ha => absurd (h.abort_granted ha) hg, h.armed_good, nofun⟩
    | false =>
      obtain ⟨f, hf⟩ := h.phase_of_front (by simp [hr])
      rw [readCompletion_badCheck hflight hreads hk]
      exact h.ungranted (onlyBatch_processReading _ _)
        (fun hi => absurd (hr.symm.trans (h.initialising_idle hi)) nofun) hg
        (engineUngranted_processReading h.ok hf hr _)

/-- A fetch outstanding that fails ends its batch (R169, R186). -/
theorem EngineInv.fetchEnds {s : State} (h : EngineInv s) {n : Nat} {reads : List LinkRead}
    (hflight : s.engine.flight = some (.fetch n reads)) (cause : EndCause) :
    EngineInv (s.endBatch cause) :=
  h.endBatch (by simp [h.running_of_flight hflight]) (by simp [hflight]) cause

theorem EngineInv.fetchError {s : State} (h : EngineInv s) (n : Nat) :
    EngineInv (fetchError n s) := by
  by_cases hfetch : ∃ reads, s.engine.flight = some (.fetch n reads)
  · obtain ⟨reads, hflight⟩ := hfetch
    rw [fetchError_ends hflight]
    exact h.fetchEnds hflight _
  · rwa [fetchError_ignored (not_exists.1 hfetch)]

theorem EngineInv.fetchTimeout {s : State} (h : EngineInv s) : EngineInv (fetchTimeout s) := by
  by_cases hfetch : ∃ n reads, s.engine.flight = some (.fetch n reads)
  · obtain ⟨n, reads, hflight⟩ := hfetch
    rw [fetchTimeout_ends hflight]
    exact h.fetchEnds hflight _
  · rwa [fetchTimeout_ignored]
    exact fun n reads hflight => hfetch ⟨n, reads, hflight⟩

/-- Every action of the engine itself keeps the engine in order. -/
theorem EngineInv.batch {s t : State} (h : EngineInv s) (hb : BatchActs s t) : EngineInv t := by
  cases hb with
  | nextWritten w => exact h.writeNext w
  | armRefusedCleared => exact h.setArmRefused false
  | aborted => exact h.abortBatch
  | paused => exact h.pauseBatch
  | resumed => exact h.resumeBatch
  | armed => exact h.armNext
  | fetchCompleted n data => exact h.readCompletion n data
  | fetchFailed n => exact h.fetchError n
  | fetchTimedOut => exact h.fetchTimeout

end Sys2Proof.Machine
end

section
/-! The clients of the Record Unit kept in order, and with them the Batch Engine: what work of the Record
Unit does to walkers and arbiter, then each action of the part on both invariants. -/

namespace Sys2Proof.Machine

open Sys2Proof

/-! ## Work leaves the walkers alone (R14, R111, R142) -/

/-- The same walkers and the same arbiter. -/
structure SameWalkers (u v : RecordUnit) : Prop where
  sweep : v.sweep = u.sweep
  survey : v.survey = u.survey
  arbiter : v.arbiter = u.arbiter

theorem SameWalkers.refl (u : RecordUnit) : SameWalkers u u := ⟨rfl, rfl, rfl⟩

theorem SameWalkers.trans {u v w : RecordUnit} (h : SameWalkers u v) (k : SameWalkers v w) :
    SameWalkers u w :=
  ⟨k.sweep.trans h.sweep, k.survey.trans h.survey, k.arbiter.trans h.arbiter⟩

/-- Counts are nothing to the walkers. -/
theorem CountsOnly.walkers {u v : RecordUnit} (h : CountsOnly u v) : SameWalkers u v := by
  obtain ⟨_, _, _, _, _, _, _, hsweep, hsurvey, harbiter, _⟩ := h.fields
  exact ⟨hsweep, hsurvey, harbiter⟩

theorem Worked.commit_walkers {u : RecordUnit} {r : LineRecord} {t : Touch}
    (h : Worked (touch u r) t) : SameWalkers u t.commit :=
  let ⟨hsweep, hsurvey, harbiter⟩ := h.frame_touch.unit.walkers
  ⟨hsweep, hsurvey, harbiter⟩

theorem walked_walkers (u : RecordUnit) (visited : List LineRecord) :
    SameWalkers u (walked u visited) := by
  induction visited generalizing u with
  | nil => exact .refl u
  | cons r rest ih =>
    have hr : SameWalkers u (touch u r).commit := Worked.commit_walkers .read
    exact hr.trans (ih _)

theorem createRecord_walkers (u : RecordUnit) (r : LineRecord) :
    SameWalkers u (createRecord u r) :=
  let ⟨hsweep, hsurvey, harbiter⟩ := (createRecord_counts u r).walkers
  ⟨hsweep, hsurvey, harbiter⟩

theorem retireRecord_walkers (u : RecordUnit) (r : LineRecord) :
    SameWalkers u (retireRecord u r) :=
  let ⟨hsweep, hsurvey, harbiter⟩ := (countsOnly_retireCounts u r).walkers
  ⟨hsweep, hsurvey, harbiter⟩

/-! ## The walkers and their counts (R14, R15, R112, R144) -/

/-- What `ClientInv` says of the walkers and the arbiter alone. -/
structure WalkersOk (u : RecordUnit) : Prop where
  sweep_pointer : if u.sweep.running = true
    then 1 ≤ u.sweep.pointer ∧ u.sweep.pointer ≤ lastSlot
    else u.sweep.pointer = 0
  survey_pointer : if u.survey.state = .running
    then 1 ≤ u.survey.pointer ∧ u.survey.pointer ≤ lastSlot
    else u.survey.pointer = 0
  sweep_count : u.arbiter.sweepCount ≤ 8 ∧
    (u.sweep.running = false → u.arbiter.sweepCount = 0)
  survey_count : u.arbiter.surveyCount ≤ 8 ∧
    (u.survey.state ≠ .running → u.arbiter.surveyCount = 0)

theorem ClientInv.walkers {s : State} (h : ClientInv s) : WalkersOk s.unit :=
  ⟨h.sweep_pointer, h.survey_pointer, h.sweep_count, h.survey_count⟩

theorem WalkersOk.congr {u v : RecordUnit} (h : WalkersOk u) (hw : SameWalkers u v) :
    WalkersOk v := by
  obtain ⟨hsweep, hsurvey, harbiter⟩ := hw
  constructor
  · rw [hsweep]
    exact h.sweep_pointer
  · rw [hsurvey]
    exact h.survey_pointer
  · rw [hsweep, harbiter]
    exact h.sweep_count
  · rw [hsurvey, harbiter]
    exact h.survey_count

theorem one_le_lastSlot : 1 ≤ lastSlot := by decide

/-- Every work of the Record Unit keeps the walkers in order: CLOSE_DAY and START_SURVEY start one at
slot 1, STOP_SURVEY ends one with its count at 0 (R97, R143, R147). -/
theorem Effect.walkers {u v : RecordUnit} (he : Effect u v) (h : WalkersOk u) : WalkersOk v := by
  cases he with
  | stands => exact h
  | worked _ hw => exact h.congr hw.commit_walkers
  | created region ht =>
    unfold RecordUnit.takeSlot at ht
    split at ht <;> cases ht
    have htaken : SameWalkers u { u with ringHead := (u.ringHead + 1) % 4096 } := ⟨rfl, rfl, rfl⟩
    exact h.congr (htaken.trans (createRecord_walkers _ _))
  | @retired r _ =>
    have htouched : SameWalkers u (touch u r).unit := (touch_kept u r).workFrame.unit.walkers
    exact h.congr (htouched.trans (retireRecord_walkers _ _))
  | scanned => exact h.congr (walked_walkers u _)
  | profileWritten | profilesFrozen | lotAdded | lotWithdrawn | lotRemoved | holdSet =>
    exact h.congr ⟨rfl, rfl, rfl⟩
  | dayClosed => exact ⟨⟨Nat.le_refl 1, one_le_lastSlot⟩, h.survey_pointer, ⟨h.sweep_count.1, nofun⟩,
      h.survey_count⟩
  | surveyStarted margin => exact ⟨h.sweep_pointer, ⟨Nat.le_refl 1, one_le_lastSlot⟩, h.sweep_count,
      h.survey_count.1, fun hs => absurd rfl hs⟩
  | surveyStopped => exact ⟨h.sweep_pointer, rfl, h.sweep_count, Nat.zero_le 8, fun _ => rfl⟩

theorem countGrant_le {count : Nat} (h : count ≤ 8) (waits : Bool) : countGrant waits count ≤ 8 := by
  cases waits
  · exact h
  · exact Nat.min_le_left _ _

/-- A foreground grant counts for the walkers that wait alone (R15). -/
theorem WalkersOk.afterForeground {u : RecordUnit} (h : WalkersOk u) (g : Grant)
    (client : Foreground) :
    WalkersOk (u.start g (u.arbiter.afterForeground client u.sweepWaits u.surveyWaits)) := by
  refine ⟨h.sweep_pointer, h.survey_pointer, ⟨countGrant_le h.sweep_count.1 _, fun hs => ?_⟩,
    ⟨countGrant_le h.survey_count.1 _, fun hv => ?_⟩⟩
  · have hwaits : u.sweepWaits = false := hs
    rw [← h.sweep_count.2 hs]
    simp [Arbiter.afterForeground, hwaits, countGrant]
  · have hwaits : u.surveyWaits = false := Bool.eq_false_iff.2 (mt (surveyWaits_iff u).1 hv)
    rw [← h.survey_count.2 hv]
    simp [Arbiter.afterForeground, hwaits, countGrant]

/-- A sweep step, granted with the count at 0, leaves the pointer on a slot or ends the sweep
(R112). -/
theorem WalkersOk.swept {u : RecordUnit} (h : WalkersOk u) (hr : u.sweep.running = true)
    (hc : u.arbiter.sweepCount = 0) : WalkersOk (sweepWalk u).unit := by
  have ended (v : RecordUnit) (hv : SameWalkers u v) :
      WalkersOk { v with sweep := ⟨false, 0⟩ } := by
    have hk := h.congr hv
    exact ⟨rfl, hk.survey_pointer,
      ⟨hk.sweep_count.1, fun _ => (congrArg Arbiter.sweepCount hv.arbiter).trans hc⟩,
      hk.survey_count⟩
  cases hn : u.nextLive u.sweep.pointer with
  | none =>
    rw [sweepWalk_of_none hn]
    exact ended u (.refl u)
  | some r =>
    have hw : SameWalkers u (touch u r).commit := Worked.commit_walkers .read
    by_cases hlast : r.slot < lastSlot
    · rw [sweepWalk_below_last hn hlast]
      have hk := h.congr hw
      refine ⟨?_, hk.survey_pointer, ⟨hk.sweep_count.1, fun hs => ?_⟩, hk.survey_count⟩
      · show if u.sweep.running = true then 1 ≤ r.slot + 1 ∧ r.slot + 1 ≤ lastSlot else _
        rw [if_pos hr]
        omega
      · exact absurd (hr.symm.trans hs) nofun
    · rw [sweepWalk_at_last hn (Nat.not_lt.1 hlast)]
      exact ended _ hw

/-- A survey step likewise (R144). -/
theorem WalkersOk.surveyed {u : RecordUnit} (h : WalkersOk u) (hr : u.survey.state = .running)
    (hc : u.arbiter.surveyCount = 0) : WalkersOk (surveyWalk u).unit := by
  have ended (v : RecordUnit) (hv : SameWalkers u v) (result : Survey) :
      WalkersOk { v with survey := result.finish } := by
    have hk := h.congr hv
    exact ⟨hk.sweep_pointer, rfl, hk.sweep_count, hk.survey_count.1,
      fun _ => (congrArg Arbiter.surveyCount hv.arbiter).trans hc⟩
  unfold surveyWalk
  split
  · exact ended u (.refl u) _
  · next r _ =>
    have hw := Worked.commit_walkers (u := u) (r := r)
      (.marked (marginalTest (touch u r).profile u.survey.margin (touch u r).line))
    dsimp only
    split
    · exact ended _ hw _
    · next hlast =>
      have hk := h.congr hw
      refine ⟨hk.sweep_pointer, ?_, hk.sweep_count, hk.survey_count.1, fun hs => absurd hr hs⟩
      show if u.survey.state = .running then 1 ≤ r.slot + 1 ∧ r.slot + 1 ≤ lastSlot else _
      rw [if_pos hr]
      omega

/-! ## The Command Port's phase (R150 to R152) -/

/-- A GO grants nothing and completes nothing granted (R150, R151). -/
theorem offerRequest_granted (h : Header) (op : PortOp) (s : State) :
    (offerRequest h op s).port.phase = .granted ↔ s.port.phase = .granted := by
  by_cases hi : s.port.phase = .idle
  · have hnot : ¬s.port.phase = .granted := by simp [hi]
    rw [offerRequest_idle hi]
    refine iff_of_false ?_ hnot
    cases hr : s.readiness with
    | initialising => simp [takeRequest_notReady h op hr]
    | ready =>
      cases op with
      | unknown code => simp [takeRequest_unknown h code hr]
      | openConfig key => simp [takeRequest_openConfig h key hr]
      | closeConfig => simp [takeRequest_closeConfig h hr]
      | unit op =>
        rw [takeRequest_unit h op hr]
        split <;> simp
  · rw [offerRequest_busy hi]

/-- While INITIALISING a request is answered at once (R154). -/
theorem offerRequest_initialising (h : Header) (op : PortOp) {s : State}
    (hr : s.readiness = .initialising) (hi : s.port.phase = .idle) :
    (offerRequest h op s).port.phase = .idle := by
  rw [offerRequest_idle hi, takeRequest_notReady h op hr, respond_port]

/-! ## The clients, action by action -/

/-- The invariant rests on the walkers, the arbiter, the request under way, what the port's phase says
of it, the readiness and cold reset. -/
theorem ClientInv.congr {s t : State} (h : ClientInv s)
    (hg : t.port.phase = .granted ↔ s.port.phase = .granted)
    (hi : s.readiness = .initialising → s.port.phase = .idle → t.port.phase = .idle)
    (hw : SameWalkers s.unit t.unit) (hp : t.unit.inProgress = s.unit.inProgress)
    (hr : t.readiness = s.readiness) (hc : t.inColdReset = s.inColdReset) : ClientInv t := by
  obtain ⟨hsweep, hsurvey, harbiter⟩ := hw
  have hok := h.walkers.congr ⟨hsweep, hsurvey, harbiter⟩
  refine ⟨?_, ?_, ?_, hok.sweep_pointer, hok.survey_pointer, hok.sweep_count, hok.survey_count, ?_,
    ?_⟩
  · rw [hg, hp]
    exact h.port_granted
  · rw [hp, hsweep, harbiter]
    exact h.sweep_step
  · rw [hp, hsurvey, harbiter]
    exact h.survey_step
  · rw [hr, hp, hsweep, hsurvey]
    intro hready
    obtain ⟨hidle, hquiet⟩ := h.initialising_quiet hready
    exact ⟨hi hready hidle, hquiet⟩
  · rw [hc, hr]
    exact h.held_initialising

/-- An action that leaves the port and the Record Unit as they stand. -/
theorem ClientInv.of_unit {s t : State} (h : ClientInv s) (hport : t.port.phase = s.port.phase)
    (hu : t.unit = s.unit) (hr : t.readiness = s.readiness) (hc : t.inColdReset = s.inColdReset) :
    ClientInv t :=
  h.congr (by rw [hport]) (fun _ hi => hport.trans hi) (hu ▸ .refl _) (by rw [hu]) hr hc

/-- Nothing is under way while INITIALISING. -/
theorem ClientInv.ready_of_inProgress {s : State} (h : ClientInv s) {g : Grant}
    (hg : s.unit.inProgress = some g) : s.readiness ≠ .initialising := by
  intro hr
  obtain ⟨-, hnone, -⟩ := h.initialising_quiet hr
  exact absurd (hg.symm.trans hnone) nofun

/-- The work under way completed, with the walkers in order and the port's request, if it was the
port's, answered. -/
theorem ClientInv.completed {s t : State} (h : ClientInv s) (hg : s.unit.inProgress ≠ none)
    (hn : t.unit.inProgress = none) (hw : WalkersOk t.unit) (hp : t.port.phase ≠ .granted)
    (hr : t.readiness = s.readiness) (hc : t.inColdReset = s.inColdReset) : ClientInv t := by
  obtain ⟨g, hg⟩ := Option.ne_none_iff_exists'.1 hg
  refine ⟨iff_of_false hp ?_, ?_, ?_, hw.sweep_pointer, hw.survey_pointer, hw.sweep_count,
    hw.survey_count, fun hi => absurd (hr ▸ hi) (h.ready_of_inProgress hg), ?_⟩
  · rw [hn]
    rintro ⟨_, hreq⟩
    cases hreq
  · rw [hn]
    nofun
  · rw [hn]
    nofun
  · rw [hc, hr]
    exact h.held_initialising

/-- The port waits on no request but the one under way. -/
theorem ClientInv.not_granted {s : State} (h : ClientInv s)
    (hg : ∀ req, s.unit.inProgress ≠ some (.command req false)) : s.port.phase ≠ .granted :=
  fun hp => let ⟨req, hreq⟩ := h.port_granted.1 hp
    hg req hreq

theorem ClientInv.completeCommand {s : State} (h : ClientInv s) :
    ClientInv (completeCommand s) := by
  have hqueue := (sameQueue_completeCommand s).inColdReset
  by_cases hreq : ∃ req d, s.unit.inProgress = some (.command req d)
  case neg =>
    unfold Machine.completeCommand
    split
    · next req d hg => exact absurd ⟨req, d, hg⟩ hreq
    · exact h
  obtain ⟨req, d, hg⟩ := hreq
  have hw : WalkersOk { (carryOut s.unit req).unit with inProgress := none } :=
    ((carryOut_effect s.unit req).walkers h.walkers).congr ⟨rfl, rfl, rfl⟩
  cases d with
  | false =>
    have hdone := completeCommand_answered hg
    exact h.completed (by simp [hg]) (by simp [hdone]) (by simpa [hdone] using hw)
      (by simp [hdone]) (by simp [hdone]) hqueue
  | true =>
    have hdone := completeCommand_discarded hg
    have hport : s.port.phase ≠ .granted := h.not_granted (by simp [hg])
    exact h.completed (by simp [hg]) (by simp [hdone]) (by simpa [hdone] using hw)
      (by simpa [hdone] using hport) (by simp [hdone]) hqueue

theorem ClientInv.completeReading {s : State} (h : ClientInv s) :
    ClientInv (completeReading s) := by
  have hqueue := (sameQueue_completeReading s).inColdReset
  by_cases hreading : ∃ data d, s.unit.inProgress = some (.reading data d)
  case neg =>
    unfold Machine.completeReading
    split
    · next data d hg => exact absurd ⟨data, d, hg⟩ hreading
    · exact h
  obtain ⟨data, d, hg⟩ := hreading
  have hw : WalkersOk { (carryReading s.unit data).unit with inProgress := none } :=
    ((carryReading_effect s.unit data).walkers h.walkers).congr ⟨rfl, rfl, rfl⟩
  have hport : s.port.phase ≠ .granted := h.not_granted (by simp [hg])
  cases d with
  | false =>
    have hdone := completeReading_batch hg
    have hbatch := onlyBatch_processReading
      ({ s with unit := { (carryReading s.unit data).unit with inProgress := none } }.latchAttention
        (carryReading s.unit data).attention) (carryReading s.unit data).verdict
    rw [← hdone] at hbatch
    exact h.completed (by simp [hg]) (by simp [hbatch.unit]) (by simpa [hbatch.unit] using hw)
      (by simpa [hbatch.port] using hport) (by simp [hbatch.readiness]) hqueue
  | true =>
    have hdone := completeReading_discarded hg
    exact h.completed (by simp [hg]) (by simp [hdone]) (by simpa [hdone] using hw)
      (by simpa [hdone] using hport) (by simp [hdone]) hqueue

/-- A walker's step completed, whatever its walk gives (R112, R144). -/
theorem ClientInv.finishWalk {s : State} (h : ClientInv s) {w : Walked} (src : Source) {g : Grant}
    (hg : s.unit.inProgress = some g) (hcommand : ∀ req, g ≠ .command req false)
    (hw : WalkersOk w.unit) : ClientInv (finishWalk w src s) := by
  have hport : s.port.phase ≠ .granted :=
    h.not_granted fun req hreq => hcommand req (Option.some.inj (hg.symm.trans hreq))
  have hok : WalkersOk { w.unit with inProgress := none } := hw.congr ⟨rfl, rfl, rfl⟩
  rw [finishWalk_eq]
  exact h.completed (by simp [hg]) rfl hok hport rfl rfl

theorem ClientInv.sweepStep {s : State} (h : ClientInv s) : ClientInv (sweepStep s) := by
  unfold Machine.sweepStep
  split
  · next hg =>
    obtain ⟨hr, hc⟩ := h.sweep_step hg
    exact h.finishWalk .sweepDone hg nofun (h.walkers.swept hr hc)
  · exact h

theorem ClientInv.surveyStep {s : State} (h : ClientInv s) : ClientInv (surveyStep s) := by
  unfold Machine.surveyStep
  split
  · next hg =>
    obtain ⟨hr, hc⟩ := h.survey_step hg
    exact h.finishWalk .surveyDone hg nofun (h.walkers.surveyed hr hc)
  · exact h

/-- A grant made with the Record Unit free, of whichever client. -/
theorem ClientInv.started {s t : State} (h : ClientInv s) {g : Grant} {a : Arbiter}
    (hr : s.readiness = .ready) (hu : t.unit = s.unit.start g a) (hw : WalkersOk t.unit)
    (hport : t.port.phase = .granted ↔ ∃ req, g = .command req false)
    (hsweep : g = .sweepStep → s.unit.sweep.running = true ∧ a.sweepCount = 0)
    (hsurvey : g = .surveyStep → s.unit.survey.state = .running ∧ a.surveyCount = 0)
    (hready : t.readiness = s.readiness) (hc : t.inColdReset = s.inColdReset) : ClientInv t := by
  have hnot : t.readiness ≠ .initialising := by simp [hready, hr]
  refine ⟨?_, ?_, ?_, hw.sweep_pointer, hw.survey_pointer, hw.sweep_count, hw.survey_count,
    fun hi => absurd hi hnot, ?_⟩
  · simpa [hu] using hport
  · simpa [hu] using hsweep
  · simpa [hu] using hsurvey
  · rw [hc, hready]
    exact h.held_initialising

theorem ClientInv.grant {s : State} (h : ClientInv s) : ClientInv (grant s) := by
  have idle (hn : s.unit.inProgress = none) : s.port.phase ≠ .granted :=
    h.not_granted (by simp [hn])
  have hgrant := grant_granted s
  generalize Machine.grant s = t at hgrant
  cases hgrant with
  | none => exact h
  | command hr hn hp =>
    exact h.started hr rfl (h.walkers.afterForeground _ _) (by simp) nofun nofun rfl rfl
  | reading hr hn hf =>
    exact h.started hr rfl (h.walkers.afterForeground _ _) (by simpa using idle hn) nofun nofun
      rfl rfl
  | sweep hr hn hw =>
    refine h.started hr rfl ?_ (by simpa using idle hn) (fun _ => ⟨hw, rfl⟩) nofun rfl rfl
    exact ⟨h.sweep_pointer, h.survey_pointer, ⟨Nat.zero_le 8, fun _ => rfl⟩, h.survey_count⟩
  | survey hr hn hw =>
    refine h.started hr rfl ?_ (by simpa using idle hn) nofun (fun _ => ⟨hw, rfl⟩) rfl rfl
    exact ⟨h.sweep_pointer, h.survey_pointer, h.sweep_count, ⟨Nat.zero_le 8, fun _ => rfl⟩⟩

/-- A port reset discards the answer of what is under way, and answers the port's request itself
(R155, R188). -/
theorem ClientInv.portReset {s : State} (h : ClientInv s) : ClientInv (portReset s) := by
  have hdiscarded : (Machine.portReset s).unit =
      { s.unit with inProgress := s.unit.inProgress.map Grant.discard } := by
    unfold Machine.portReset
    simp only [State.discardOutbound_unit]
  have hready : (Machine.portReset s).readiness = s.readiness := State.discardOutbound_readiness s
  have hcold : (Machine.portReset s).inColdReset = s.inColdReset :=
    State.discardOutbound_inColdReset s
  refine ⟨?_, ?_, ?_, ?_, ?_, ?_, ?_, ?_, ?_⟩
  · refine iff_of_false nofun ?_
    rw [hdiscarded]
    rintro ⟨req, hreq⟩
    obtain ⟨g, -, hg⟩ := Option.map_eq_some_iff.1 hreq
    cases g <;> simp [Grant.discard] at hg
  · rw [hdiscarded]
    intro hstep
    obtain ⟨g, hunder, hg⟩ := Option.map_eq_some_iff.1 hstep
    cases g <;> cases hg
    exact h.sweep_step hunder
  · rw [hdiscarded]
    intro hstep
    obtain ⟨g, hunder, hg⟩ := Option.map_eq_some_iff.1 hstep
    cases g <;> cases hg
    exact h.survey_step hunder
  · rw [hdiscarded]
    exact h.sweep_pointer
  · rw [hdiscarded]
    exact h.survey_pointer
  · rw [hdiscarded]
    exact h.sweep_count
  · rw [hdiscarded]
    exact h.survey_count
  · rw [hready, hdiscarded]
    intro hi
    obtain ⟨-, hnone, hwalkers⟩ := h.initialising_quiet hi
    exact ⟨rfl, by simp [hnone], hwalkers⟩
  · rw [hcold, hready]
    exact h.held_initialising

/-- The end of initialisation finds nothing under way and leaves nothing under way (R12, R182). -/
theorem ClientInv.initialise {s : State} (h : ClientInv s) (hc : s.inColdReset = false) :
    ClientInv (initialise s) := by
  unfold Machine.initialise
  split
  · exact h
  · exact ⟨h.port_granted, h.sweep_step, h.survey_step, h.sweep_pointer, h.survey_pointer,
      h.sweep_count, h.survey_count, nofun, fun hheld => absurd (hc.symm.trans hheld) nofun⟩

theorem ClientInv.acts {s t : State} (h : ClientInv s) (hc : s.inColdReset = false)
    (ha : Acts s t) : ClientInv t := by
  cases ha with
  | blockWritten | overrunCleared | sourcesCleared | enablesWritten =>
    exact h.of_unit rfl rfl rfl rfl
  | offered header op =>
    have hport := onlyPort_offerRequest header op s
    exact h.congr (offerRequest_granted header op s) (offerRequest_initialising header op)
      (hport.unit ▸ .refl _) (by rw [hport.unit]) hport.readiness hport.queue.inColdReset
  | portReset => exact h.portReset
  | batch hb =>
    have hbatch := hb.onlyBatch
    exact h.of_unit (by rw [hbatch.port]) hbatch.unit hbatch.readiness hbatch.sameQueue.inColdReset
  | initialised => exact h.initialise hc
  | granted => exact h.grant
  | commandCompleted => exact h.completeCommand
  | readingCompleted => exact h.completeReading
  | sweepStepped => exact h.sweepStep
  | surveyStepped => exact h.surveyStep

/-! ## The engine, action by action -/

/-- With no reading of the engine's under way before or after, an engine left as it stands is in
order. -/
theorem EngineInv.noReading {s t : State} (h : EngineInv s)
    (hs : ∀ data, s.unit.inProgress ≠ some (.reading data false))
    (ht : ∀ data, t.unit.inProgress ≠ some (.reading data false)) (he : t.engine = s.engine)
    (hf : t.fetchSerial = s.fetchSerial) (hr : t.readiness = s.readiness) : EngineInv t := by
  refine EngineOk.inv (by rw [he, hf]; exact h.ok) (iff_of_false ?_ ?_)
    (by rw [he, hr]; exact h.initialising_idle)
  · rw [he, h.granted_iff]
    exact fun ⟨data, hdata⟩ => hs data hdata
  · exact fun ⟨data, hdata⟩ => ht data hdata

theorem EngineInv.completeCommand {s : State} (h : EngineInv s) :
    EngineInv (completeCommand s) := by
  unfold Machine.completeCommand
  split
  · next req d hg =>
    dsimp only
    split <;> exact h.noReading (by simp [hg]) (by simp) (by simp) (by simp) (by simp)
  · exact h

/-- The engine's granted reading completed is a reading processed; one discarded was no longer the
engine's (R172, R178). -/
theorem EngineInv.completeReading {s : State} (h : EngineInv s) :
    EngineInv (completeReading s) := by
  by_cases hreading : ∃ data d, s.unit.inProgress = some (.reading data d)
  case neg =>
    unfold Machine.completeReading
    split
    · next data d hg => exact absurd ⟨data, d, hg⟩ hreading
    · exact h
  obtain ⟨data, d, hg⟩ := hreading
  cases d with
  | true =>
    have hdone := completeReading_discarded hg
    exact h.noReading (by simp [hg]) (by simp [hdone]) (by simp [hdone]) (by simp [hdone])
      (by simp [hdone])
  | false =>
    have hr : s.engine.phase = .running := h.running_of_flight (h.granted_iff.2 ⟨data, hg⟩)
    obtain ⟨f, hf⟩ := h.phase_of_front (by simp [hr])
    rw [completeReading_batch hg]
    have hbatch := onlyBatch_processReading
      ({ s with unit := { (carryReading s.unit data).unit with inProgress := none } }.latchAttention
        (carryReading s.unit data).attention) (carryReading s.unit data).verdict
    have hdone := engineUngranted_processReading
      (s := { s with
        unit := { (carryReading s.unit data).unit with inProgress := none } }.latchAttention
          (carryReading s.unit data).attention)
      (by simpa using h.ok) (by simpa using hf) (by simpa using hr)
      (carryReading s.unit data).verdict
    refine hdone.1.inv (iff_of_false hdone.2 ?_) fun hi => ?_
    · simp [hbatch.unit]
    · rw [hbatch.readiness, State.latchAttention_readiness] at hi
      exact absurd (hr.symm.trans (h.initialising_idle hi)) nofun

theorem EngineInv.finishWalk {s : State} (h : EngineInv s) (w : Walked) (src : Source)
    (hg : ∀ data, s.unit.inProgress ≠ some (.reading data false)) :
    EngineInv (finishWalk w src s) := by
  rw [finishWalk_eq]
  exact h.noReading hg nofun rfl rfl rfl

theorem EngineInv.grant {s : State} (h : EngineInv s) : EngineInv (grant s) := by
  have hgrant := grant_granted s
  generalize Machine.grant s = t at hgrant
  cases hgrant with
  | none => exact h
  | command hr hn hp => exact h.noReading (by simp [hn]) (by simp) rfl rfl rfl
  | reading hr hn hf =>
    have hrun := h.running_of_flight hf
    refine EngineOk.inv ?_ (by simp) (fun hi => absurd (hr.symm.trans hi) nofun)
    exact ⟨h.front_iff, h.counters, h.idle_clear, h.paused_clear, by simp [hrun], fun _ => rfl,
      h.armed_good, nofun⟩
  | sweep hr hn hw => exact h.noReading (by simp [hn]) (by simp) rfl rfl rfl
  | survey hr hn hw => exact h.noReading (by simp [hn]) (by simp) rfl rfl rfl

/-- A port reset leaves an IDLE engine, and no reading under way is its own any more (R178). -/
theorem EngineInv.portReset (s : State) : EngineInv (portReset s) := by
  refine EngineOk.inv (engineOk_reset _) (iff_of_false nofun ?_) fun _ => rfl
  rintro ⟨data, hdata⟩
  obtain ⟨g, -, hg⟩ := Option.map_eq_some_iff.1 hdata
  cases g <;> simp [Grant.discard] at hg

theorem EngineInv.acts {s t : State} (h : EngineInv s) (ha : Acts s t) : EngineInv t := by
  cases ha with
  | blockWritten | overrunCleared | sourcesCleared | enablesWritten => exact h.congr rfl rfl rfl rfl
  | offered header op =>
    have hport := onlyPort_offerRequest header op s
    exact h.congr hport.engine hport.fetchSerial (by rw [hport.unit]) hport.readiness
  | portReset => exact .portReset s
  | batch hb => exact h.batch hb
  | initialised =>
    unfold Machine.initialise
    split
    · exact h
    · refine EngineOk.inv ?_ ?_ nofun
      · exact h.ok
      · exact h.granted_iff
  | granted => exact h.grant
  | commandCompleted => exact h.completeCommand
  | readingCompleted => exact h.completeReading
  | sweepStepped =>
    unfold Machine.sweepStep
    split
    · next hg => exact h.finishWalk _ _ (by simp [hg])
    · exact h
  | surveyStepped =>
    unfold Machine.surveyStep
    split
    · next hg => exact h.finishWalk _ _ (by simp [hg])
    · exact h

/-! ## Every step -/

/-- The part as a cold reset leaves it: an IDLE engine and nothing under way (R182). -/
theorem engineInv_reset {s : State} (he : s.engine = BatchEngine.reset)
    (hu : s.unit = RecordUnit.reset) : EngineInv s := by
  refine EngineOk.inv (he ▸ engineOk_reset _) (iff_of_false ?_ ?_) fun _ => by rw [he]; rfl
  · rw [he]
    nofun
  · rw [hu]
    exact fun ⟨_, hdata⟩ => nomatch hdata

theorem clientInv_reset {s : State} (hu : s.unit = RecordUnit.reset)
    (hp : s.port = CommandPort.reset) (hr : s.readiness = .initialising) : ClientInv s := by
  constructor <;>
    simp [hu, hp, hr, RecordUnit.reset, CommandPort.reset]

theorem engineInv_and_clientInv_kept : KeptByActions fun s => EngineInv s ∧ ClientInv s where
  queue _ _ := fun ⟨he, hc⟩ => ⟨he.congr rfl rfl rfl rfl, hc.of_unit rfl rfl rfl rfl⟩
  sent s := fun ⟨he, hc⟩ =>
    ⟨he.congr (by simp) (by simp) (by simp) (by simp),
      hc.of_unit (by simp) (by simp) (by simp) (by simp)⟩
  settled before s := fun ⟨he, hc⟩ =>
    ⟨he.congr (by simp) (by simp) (by simp) (by simp),
      hc.of_unit (by simp) (by simp) (by simp) (by simp)⟩
  cold held s := ⟨engineInv_reset rfl rfl, clientInv_reset rfl rfl rfl⟩
  acts s t hcold ha := fun ⟨he, hc⟩ => ⟨he.acts ha, hc.acts hcold ha⟩

/-- Settles O56: each action of the part keeps the engine and the clients in order, and a step is a cold
reset or a run of actions. -/
theorem stepKeepsEngineAndClients : Obligations.StepKeepsEngineAndClients :=
  fun _ _ he hc h => engineInv_and_clientInv_kept.step h ⟨he, hc⟩

end Sys2Proof.Machine
end

section
/-! The machine right after reset and at the end of initialisation: its values, the ring it then holds,
and every invariant at its start. -/

namespace Sys2Proof.Machine

open Sys2Proof

/-! ## After cold reset (R182) -/

/-- Settles O3: `State.reset` writes each value out, and its tables and blocks hold one value
throughout. -/
theorem resetHoldsTheAfterColdResetValues : Obligations.ResetHoldsTheAfterColdResetValues := by
  have each {n : Nat} {α : Type} (a : α) (i : Fin n) : (Vector.replicate n a)[i] = a := by simp
  exact ⟨rfl, each [], rfl, rfl, each Profile.unset, each Lot.vacant, each Region.reset, rfl, rfl, rfl,
    rfl, rfl, rfl, rfl, rfl, rfl, each 0, each 0, rfl, rfl, rfl, rfl, rfl, rfl, rfl, rfl, rfl, rfl, rfl,
    rfl, rfl, rfl, rfl⟩

/-- Settles O55: nothing is live, under way or running after reset, and every count is 0. -/
theorem resetMeetsEveryInvariant : Obligations.ResetMeetsEveryInvariant :=
  ⟨engineInv_reset rfl rfl, clientInv_reset rfl rfl rfl, (fun _ hr => nomatch hr), tableInv_reset rfl rfl,
    (countsInv_iff State.reset).2 countsFit_reset, closedInv_reset rfl⟩

/-! ## The end of initialisation (R12, R182) -/

/-- The Record Unit with no live record and the ring filled in slot order (R12). -/
def RecordUnit.initialised (u : RecordUnit) : RecordUnit :=
  { u with
    records := []
    ring := filledRing (u.ring.getD 4095 0)
    ringHead := 0
    ringTail := 4095 }

theorem initialise_eq {s : State} (hr : s.readiness = .initialising) :
    initialise s =
      { s with
        readiness := .ready
        unit := s.unit.initialised
        bus := { s.bus with status := s.bus.status ||| Source.ready.mask } } := by
  unfold initialise
  exact if_neg (by simp [hr])

/-- Settles O5: the ring filled, the device READY and its source latched, within one event. -/
theorem initialisationFillsTheRing : Obligations.InitialisationFillsTheRing := by
  intro s hc hr
  refine ⟨_, event_live hc, ?_⟩
  rw [initialise_eq hr]
  have hring (p : Nat) (hp : p < 4095) : s.unit.initialised.ringAt p = p + 1 :=
    ringAt_filled rfl hp
  have hannounced : Announced s (settle s { s with
      readiness := .ready
      unit := s.unit.initialised
      bus := { s.bus with status := s.bus.status ||| Source.ready.mask } }) :=
    announced_settle rfl rfl rfl rfl rfl
  have hfree : s.unit.initialised.freeCount = 4095 := by
    unfold RecordUnit.freeCount RecordUnit.initialised
    simp
  refine ⟨settle_readiness .., ?_⟩
  rw [settle_unit]
  exact ⟨rfl, rfl, rfl, hring, hfree, settle_bus_status .., hannounced, rfl, settle_port ..,
    settle_gate .., settle_engine .., settle_bus_enable .., settle_bus_sent ..,
    (settle_inColdReset ..).trans hc, settle_pending ..⟩

end Sys2Proof.Machine
end

section
/-! Requests on a named record by the checks they share, in their order: the ranges of R17, the lookup,
the expected version; and READ_LINE, which passes them on to catch-up alone. -/

namespace Sys2Proof.Machine

open Sys2Proof

/-! ## The common handling, check by check (R17, R18) -/

theorem keyOutOfRange_eq_true {site : Word} {line : Byte} (hk : ¬KeyInRange site line) :
    keyOutOfRange site line = true := by
  by_contra hout
  simp only [keyOutOfRange, Bool.or_eq_true, decide_eq_true_eq, not_or] at hout
  exact hk ⟨by omega, by omega, by omega⟩

theorem versionDiffers_eq_true {h : Header} {r : LineRecord} (hv : ¬VersionAgrees h r) :
    versionDiffers h r = true := by
  unfold VersionAgrees at hv
  obtain ⟨hpresent, hdiffers⟩ := Classical.not_imp.1 hv
  exact Bool.and_eq_true_iff.2 ⟨hpresent, bne_iff_ne.2 hdiffers⟩

section Checks

variable {u : RecordUnit} {h : Header} {site : Word} {line : Byte} {out change : Bool}
  {missing : List Field} {report : Touch → List Field} {body : Touch → Ending}

theorem onLine_outOfRange (hr : ¬KeyInRange site line ∨ out = true) :
    onLine u h site line out change missing report body =
      ⟨u, false, ⟨.badParameter, 0, 0, missing⟩⟩ := by
  unfold onLine
  refine if_pos (Bool.or_eq_true_iff.2 (hr.imp_left keyOutOfRange_eq_true))

theorem onLine_noRecord (hk : KeyInRange site line)
    (hl : u.lookup site.toNat line.toNat = none) :
    onLine u h site line false change missing report body =
      ⟨u, false, ⟨.noRecord, 0, 0, missing⟩⟩ := by
  simp only [onLine, keyOutOfRange_eq_false hk, hl]
  rfl

variable {r : LineRecord} (hk : KeyInRange site line)
  (hl : u.lookup site.toNat line.toNat = some r)

include hk hl

/-- Another version than the one expected leaves the record as catch-up left it (R18). -/
theorem onLine_versionMismatch (hv : ¬VersionAgrees h (touch u r).line) :
    onLine u h site line false true missing report body =
      ⟨(touch u r).commit, (touch u r).attention,
        ⟨.versionMismatch, r.slot, (touch u r).line.version, report (touch u r)⟩⟩ := by
  simp only [onLine, keyOutOfRange_eq_false hk, hl, versionDiffers_eq_true hv, touch_slot]
  rfl

/-- A request that changes nothing itself looks at no version (R18). -/
theorem onLine_read :
    onLine u h site line false false missing report .accepted =
      ⟨(touch u r).commit, (touch u r).attention,
        ⟨.accepted, r.slot, (touch u r).line.version, report (touch u r)⟩⟩ := by
  simp only [onLine, keyOutOfRange_eq_false hk, hl, touch_slot]
  rfl

end Checks

/-! ## The requests on a named record (R17, R157) -/

/-- What a request on a named record reports where it found none (R157, R193). -/
def missingContent : UnitOp → List Field
  | .setLineLot _ => [u8 0, u8 0xFF, u32 0]
  | _ => []

/-- A request on the record of a key as the common handling carries it out: `out` is its own range
check, and but for READ_LINE it is a change request that reports its record as it stands. -/
structure NamedRequest (h : Header) (op : UnitOp) (site : Word) (line : Byte) (out change : Bool)
    (report : Touch → List Field) (body : Touch → Ending) : Prop where
  carried : ∀ u,
    carryOut u ⟨h, op⟩ = onLine u h site line out change (missingContent op) report body
  own_range : out = true ↔ ¬OwnFieldsInRange op
  changes : (∀ a, op ≠ .readLine a) → change = true
  reports : (∀ a, op ≠ .readLine a) → ∀ t, report t = standingContent t op

/-- Parameters in their ranges, or with none of their own, are refused by no range check. -/
theorem own_range_trivial {op : UnitOp} (h : OwnFieldsInRange op) :
    false = true ↔ ¬OwnFieldsInRange op :=
  iff_of_false Bool.false_ne_true (not_not.2 h)

theorem aimsOutOfRange_iff (a : AimsArgs) :
    aimsOutOfRange a.aims = true ↔ ¬OwnFieldsInRange (.setAims a) := by
  refine ⟨fun hout hin => ?_, fun hin => ?_⟩
  · exact absurd (hout.symm.trans (aimsOutOfRange_eq_false hin)) nofun
  · by_contra hout
    refine hin fun i => ?_
    have hi := List.any_eq_false.1 (Bool.eq_false_iff.2 hout) i (List.mem_finRange i)
    simpa using hi

/-- A change request on a named record, from how it is carried out, what it refuses and what it reports. -/
theorem namedRequest_change {h : Header} {op : UnitOp} {site : Word} {line : Byte} {out : Bool}
    {report : Touch → List Field} {body : Touch → Ending}
    (hc : ∀ u, carryOut u ⟨h, op⟩ = onLine u h site line out true (missingContent op) report body)
    (ho : out = true ↔ ¬OwnFieldsInRange op) (hr : ∀ t, report t = standingContent t op) :
    ∃ out change report body, NamedRequest h op site line out change report body :=
  ⟨out, true, report, body, hc, ho, fun _ => rfl, fun _ => hr⟩

theorem namedRequest_moveLine (h : Header) (a : MoveArgs) :
    ∃ out change report body,
      NamedRequest h (.moveLine a) a.site a.line out change report body := by
  by_cases hr : a.region.toNat < 64
  · exact namedRequest_change (fun u => dif_pos hr) (own_range_trivial (Nat.le_of_lt_succ hr))
      fun _ => rfl
  · refine namedRequest_change (out := true) (report := moveReport) (body := .accepted)
      (fun u => ?_) (iff_of_true rfl fun hin => hr (Nat.lt_succ_of_le hin)) fun _ => rfl
    rw [onLine_outOfRange (.inr rfl)]
    exact dif_neg hr

theorem namedRequest_setLineProfile (h : Header) (a : LineProfileArgs) :
    ∃ out change report body,
      NamedRequest h (.setLineProfile a) a.site a.line out change report body := by
  by_cases hp : a.profile.toNat < 32
  · exact namedRequest_change (fun u => dif_pos hp) (own_range_trivial (Nat.le_of_lt_succ hp))
      fun _ => rfl
  · refine namedRequest_change (out := true) (report := lineProfileReport) (body := .accepted)
      (fun u => ?_) (iff_of_true rfl fun hin => hp (Nat.lt_succ_of_le hin)) fun _ => rfl
    rw [onLine_outOfRange (.inr rfl)]
    exact dif_neg hp

theorem lotReport_standing (t : Touch) (a : LineLotArgs) :
    lotReport t = standingContent t (.setLineLot a) := by
  unfold lotReport
  rw [lotCodeOf_eq]
  rfl

theorem lot_out_of_range_iff (code : Word) : decide (code = 0) = true ↔ ¬code ≠ 0 :=
  decide_eq_true_iff.trans not_not.symm

/-- Every request on a named record goes by the common handling. -/
theorem namedRequest_of_namedKey (h : Header) {op : UnitOp} {site : Word} {line : Byte}
    (hn : namedKey op = some (site, line)) :
    ∃ out change report body, NamedRequest h op site line out change report body := by
  cases op <;> cases hn
  case readLine a =>
    exact ⟨false, false, _, _, fun u => (rfl : carryReadLine u h a = _), own_range_trivial trivial,
      fun hr => absurd rfl (hr a), fun hr => absurd rfl (hr a)⟩
  case moveLine a => exact namedRequest_moveLine h a
  case setLineProfile a => exact namedRequest_setLineProfile h a
  case retireLine a =>
    exact namedRequest_change (fun u => (rfl : carryRetireLine u h a = _))
      (own_range_trivial trivial) fun _ => rfl
  case setAims a =>
    exact namedRequest_change (fun u => (rfl : carrySetAims u h a = _)) (aimsOutOfRange_iff a)
      fun _ => rfl
  case setLineLot a =>
    exact namedRequest_change (fun u => (rfl : carrySetLineLot u h a = _))
      (lot_out_of_range_iff a.lot) fun t => lotReport_standing t a
  case startCrossover a =>
    exact namedRequest_change (fun u => (rfl : carryStartCrossover u h a = _))
      (lot_out_of_range_iff a.lot) crossoverReport_eq
  case cancelCrossover a =>
    exact namedRequest_change (fun u => (rfl : carryCancelCrossover u h a = _))
      (own_range_trivial trivial) crossoverReport_eq
  case acknowledge a =>
    exact namedRequest_change (fun u => (rfl : carryAcknowledge u h a = _))
      (own_range_trivial trivial) fun _ => rfl
  case clearDrift a =>
    exact namedRequest_change (fun u => (rfl : carryClearDrift u h a = _))
      (own_range_trivial trivial) fun _ => rfl
  case reinstate a =>
    exact namedRequest_change (fun u => (rfl : carryReinstate u h a = _))
      (own_range_trivial trivial) fun _ => rfl

/-- The port presents every request on a named record (R150). -/
theorem portRefuses_namedKey {op : UnitOp} {key : Word × Byte} (hn : namedKey op = some key)
    (g : Gate) : portRefuses g op = none := by
  refine portRefuses_ungated (Bool.eq_false_iff.2 fun hg => ?_) fun raw hop => ?_
  · obtain ⟨a, rfl⟩ | rfl | ⟨a, rfl⟩ | ⟨l, rfl⟩ | ⟨l, rfl⟩ := isGated_iff.1 hg <;> cases hn
  · subst hop
    cases hn

/-- What a record reports as it stands does not rest on the request under way. -/
theorem standingContent_restart (g : Option Grant) (k : Arbiter) (t : Touch) (op : UnitOp) :
    standingContent (t.restart g k) op = standingContent t op := by
  cases op <;> rfl

/-- Settles O17: every named request goes by the common handling, which makes the three checks one
after another. -/
theorem namedRequestsAreCheckedInOrder : Obligations.NamedRequestsAreCheckedInOrder := by
  intro s h op site line hf hn missing
  obtain ⟨out, change, report, body, hc⟩ := namedRequest_of_namedKey h hn
  have hp := portRefuses_namedKey hn (gateAfterOther s.gate)
  have hmissing : missingContent op = missing := by
    cases op <;> rfl
  have inRange (ho : OwnFieldsInRange op) : out = false :=
    Bool.eq_false_iff.2 (mt hc.own_range.1 (not_not.2 ho))
  refine ⟨fun hr => ?range, fun hk ho hl => ?record, fun r hk ho hl hread hv => ?version⟩
  case range =>
    refine served_of_carried hf hp fun g a => ?_
    rw [hc.carried, hmissing]
    refine onLine_outOfRange ?_
    exact (not_and_or.1 hr).imp_right hc.own_range.2
  case record =>
    refine served_of_carried hf hp fun g a => ?_
    rw [hc.carried, hmissing, inRange ho]
    exact onLine_noRecord hk ((lookup_start ..).trans hl)
  case version =>
    have hserved := served_of_portFirst (h := h) hf hp
    dsimp only at hserved
    rw [hc.carried, inRange ho, hc.changes hread,
      onLine_versionMismatch hk ((lookup_start ..).trans hl) (by rw [touch_start]; exact hv),
      touch_start, hc.reports hread, standingContent_restart] at hserved
    exact hserved

/-! ## READ_LINE (R21, R99, R194) -/

/-- A catch-up touches its own record, and the tables in their counts alone (R99). -/
theorem onlyRecord_touch (u : RecordUnit) (r : LineRecord) :
    OnlyRecord r.slot u (touch u r).commit := by
  have hkept := (touch_kept u r).workFrame.unit
  obtain ⟨-, hindex, hring, hhead, htail, hday, hfreeze, hsweep, hsurvey, -, -⟩ := hkept.fields
  refine ⟨fun n hn => ?_, hindex, hring, hhead, htail, hday, hfreeze, hsweep, hsurvey,
    hkept.profiles, hkept.lots, hkept.regions⟩
  rw [recordAt_touch_commit, if_neg (Ne.symm hn)]

/-- Settles O18: READ_LINE passes the version check by, and commits what catch-up gave. -/
theorem readLineShowsTheCaughtUpRecord : Obligations.ReadLineShowsTheCaughtUpRecord := by
  intro s h a r hf hk hl w
  refine ⟨?_, touch_closedDay s.unit r, onlyRecord_touch s.unit r⟩
  have hserved := served_of_portFirst (h := h) (op := .readLine a) hf
    (portRefuses_namedKey rfl _)
  have hcarried (u : RecordUnit) : carryOut u ⟨h, .readLine a⟩ =
      onLine u h a.site a.line false false [] (fun t => imageFields t.unit.lots t.line)
        .accepted := rfl
  dsimp only at hserved
  rw [hcarried, onLine_read hk ((lookup_start ..).trans hl), touch_start] at hserved
  obtain ⟨t, hout, ht⟩ := hserved
  refine ⟨t, hout, ht, ?_⟩
  rw [ht.port]
  exact image_showsImage rfl

end Sys2Proof.Machine
end

section
/-! RETIRE_LINE, MOVE_LINE and SET_LINE_PROFILE: the record they leave or free, and the counts they move
with it. -/

namespace Sys2Proof.Machine

open Sys2Proof

/-! ## RETIRE_LINE (R22) -/

/-- The Record Unit with a record retired: its counts, its chain, its slot at the ring's tail. -/
theorem retireRecord_eq (u : RecordUnit) (x : LineRecord) :
    retireRecord u x =
      { u with
        records := u.records.filter fun y => y.slot != x.slot
        index := u.index.set (bucketOf x.site x.lineNo).val
          (u.index[bucketOf x.site x.lineNo].filter (· != x.slot)) (bucketOf x.site x.lineNo).isLt
        ring := u.ring.setIfInBounds u.ringTail x.slot
        ringTail := (u.ringTail + 1) % 4096
        profiles := (retireCounts u x).profiles
        regions := (retireCounts u x).regions
        lots := (retireCounts u x).lots } := by
  obtain ⟨hrecords, hindex, hring, hhead, htail, hday, hfreeze, hsweep, hsurvey, harbiter, hunder⟩ :=
    (countsOnly_retireCounts u x).fields
  simp only [retireRecord, RecordUnit.dropRecord, RecordUnit.returnSlot, RecordUnit.unlinkSlot,
    hrecords, hindex, hring, hhead, htail, hday, hfreeze, hsweep, hsurvey, harbiter, hunder]

/-- The lots with the retired record's users taken off, the current one before the incoming one. -/
theorem retireCounts_lots_eq (u : RecordUnit) (x : LineRecord) :
    (retireCounts u x).lots =
      (match x.crossover with
        | none => match x.lot with | none => u | some i => dropCurrentUser u i
        | some c => dropIncomingUser (match x.lot with | none => u | some i => dropCurrentUser u i)
            c.incoming).lots := by
  rw [retireCounts_lots]
  cases x.lot <;> cases x.crossover <;> rfl

/-- The retirement does not rest on the request under way. -/
theorem retireRecord_restart (g : Option Grant) (k : Arbiter) (t : Touch) (x : LineRecord) :
    retireRecord (t.restart g k).unit x =
      { retireRecord t.unit x with inProgress := g, arbiter := k } := by
  unfold retireRecord retireCounts
  cases x.crossover <;> cases x.lot <;> cases x.attention <;> rfl

/-- RETIRE_LINE on a record found, with the version it expects (R22). -/
theorem carryOut_retireLine {u : RecordUnit} {h : Header} {a : KeyArgs} {r : LineRecord}
    (hk : KeyInRange a.site a.line) (hl : u.lookup a.site.toNat a.line.toNat = some r)
    (hv : VersionAgrees h (touch u r).line) :
    carryOut u ⟨h, .retireLine a⟩ =
      ⟨retireRecord (touch u r).unit (touch u r).line, (touch u r).attention,
        ⟨.accepted, r.slot, (touch u r).line.version, []⟩⟩ := by
  show carryRetireLine u h a = _
  simp only [carryRetireLine, onLine, keyOutOfRange_eq_false hk, hl, versionDiffers_eq_false hv,
    touch_slot]
  rfl

/-- Settles O19: the record as catch-up left it is taken out of counts, chain and table. -/
theorem retireLineFreesTheSlot : Obligations.RetireLineFreesTheSlot := by
  intro s h a r hf hk hl hv w x u bucket v₁ v₂ g
  have hserved := served_of_portFirst (h := h) (op := .retireLine a) hf
    (portRefuses_namedKey rfl _)
  dsimp only at hserved
  rw [carryOut_retireLine hk ((lookup_start ..).trans hl) (by rw [touch_start]; exact hv),
    touch_start, retireRecord_restart, retireRecord_eq, retireCounts_profiles,
    retireCounts_regions, retireCounts_lots_eq] at hserved
  have hslot : x.slot = r.slot := touch_slot s.unit r
  rw [← hslot] at hserved ⊢
  exact hserved

/-! ## MOVE_LINE (R23, R134, R162) -/

theorem restart_moveRegion (g : Option Grant) (k : Arbiter) (t : Touch) (region : Fin 64) :
    (t.restart g k).moveRegion region = (t.moveRegion region).restart g k := by
  have hl : (t.restart g k).line = t.line := rfl
  unfold Touch.moveRegion
  rw [hl]
  by_cases hr : region = t.line.region
  · rw [if_pos hr, if_pos hr]
  · rw [if_neg hr, if_neg hr]
    cases t.line.attention <;> rfl

theorem moveLine_changes (h : Header) {a : MoveArgs} {region : Fin 64}
    (hr : a.region.toNat = region.val) :
    ChangesLine h (.moveLine a) a.site a.line [] moveReport (fun _ => none)
      fun t => (t.moveRegion region).bumpVersion where
  carried u := by
    have hlt : a.region.toNat < 64 := hr ▸ region.isLt
    obtain rfl : (⟨a.region.toNat, hlt⟩ : Fin 64) = region := Fin.ext hr
    exact dif_pos hlt
  presented _ := portRefuses_namedKey rfl _
  report_restart _ _ _ := rfl
  check_restart _ _ _ := rfl
  change_restart g k t := congrArg Touch.bumpVersion (restart_moveRegion g k t region)

/-- To the region it stands in a record moves no count. -/
theorem moveRegion_same {t : Touch} {region : Fin 64} (h : region = t.line.region) :
    t.moveRegion region = t := by
  unfold Touch.moveRegion
  exact if_pos h

/-- To another region the live count moves, and the attention count where the bit is set; the new
region's count may pass from 0 (R23, R134). -/
theorem moveRegion_other {t : Touch} {region : Fin 64} (h : region ≠ t.line.region) :
    t.moveRegion region =
      let live := addLive (dropLive t.unit t.line.region) region
      { line := { t.line with region := region }
        unit :=
          if t.line.attention then addAttention (dropAttention live t.line.region) region else live
        attention := t.attention ||
          (t.line.attention && decide (t.unit.regions[region].attentionCount = 0)) } := by
  have hcount : attentionAtZero (addLive (dropLive t.unit t.line.region) region) region =
      decide (t.unit.regions[region].attentionCount = 0) := by
    unfold attentionAtZero
    rw [addLive_attentionCount, dropLive_attentionCount]
    rfl
  unfold Touch.moveRegion
  rw [if_neg h]
  dsimp only
  rw [hcount]
  cases t.line.attention <;> simp

/-- Settles O20: the line carries its live count, and its attention count if it has one, to another
region alone. -/
theorem moveLineCarriesTheCounts : Obligations.MoveLineCarriesTheCounts := by
  intro s h a r region hf hk hr hl hv w x moved live u
  have hc := moveLine_changes h hr
  refine hc.served_accepted (y := { x with region := region, version := x.version + 1 }) (v := u)
    hf hk hl hv rfl ?_ rfl
  by_cases hsame : region = x.region
  · have hstays : moved = false := decide_eq_false (not_not.2 hsame)
    have hlive : live = w.unit := if_neg (by simp [hstays])
    have hu : u = w.unit := (if_neg (by simp [hstays])).trans hlive
    rw [hu, hstays, hsame]
    show (w.moveRegion x.region).bumpVersion = _
    rw [moveRegion_same rfl]
    simp only [Bool.false_and, Bool.or_false]
    rfl
  · have hmoves : moved = true := decide_eq_true hsame
    have hlive : live = addLive (dropLive w.unit x.region) region := if_pos hmoves
    have hu : u = if x.attention then addAttention (dropAttention live x.region) region
        else live := by
      show (if (moved && x.attention) = true then _ else _) = _
      rw [hmoves, Bool.true_and]
    rw [hu, hmoves, hlive, Bool.true_and]
    show (w.moveRegion region).bumpVersion = _
    rw [moveRegion_other hsame]
    rfl

/-! ## SET_LINE_PROFILE (R24, R27, R162) -/

/-- The checks of SET_LINE_PROFILE on the profile named (R24). -/
def profileCheck (profile : Fin 32) (t : Touch) : Option Status :=
  if t.unit.profiles[profile].kind = none then some .noProfile
  else if t.unit.profiles[profile].kind ≠ some t.line.kind then some .wrongKind
  else none

theorem profileCheck_accepts {profile : Fin 32} {t : Touch}
    (h : t.unit.profiles[profile].kind = some t.line.kind) : profileCheck profile t = none := by
  simp [profileCheck, -Fin.getElem_fin, h]

theorem profileCheck_refuses {profile : Fin 32} {t : Touch}
    (h : t.unit.profiles[profile].kind ≠ some t.line.kind) :
    profileCheck profile t =
      some (if t.unit.profiles[profile].kind = none then .noProfile else .wrongKind) := by
  unfold profileCheck
  rw [if_pos h]
  split <;> rfl

theorem moveProfile_eq (t : Touch) (profile : Fin 32) :
    t.moveProfile profile =
      { line := { t.line with profile := profile }
        unit := if profile = t.line.profile then t.unit
          else addProfileUse (dropProfileUse t.unit t.line.profile) profile
        attention := t.attention } := by
  unfold Touch.moveProfile
  by_cases hp : profile = t.line.profile
  · rw [if_pos hp, if_pos hp, hp]
  · rw [if_neg hp, if_neg hp]

theorem restart_moveProfile (g : Option Grant) (k : Arbiter) (t : Touch) (profile : Fin 32) :
    (t.restart g k).moveProfile profile = (t.moveProfile profile).restart g k := by
  have hl : (t.restart g k).line = t.line := rfl
  unfold Touch.moveProfile
  rw [hl]
  by_cases hp : profile = t.line.profile
  · rw [if_pos hp, if_pos hp]
  · rw [if_neg hp, if_neg hp]
    rfl

theorem setLineProfile_changes (h : Header) {a : LineProfileArgs} {profile : Fin 32}
    (hp : a.profile.toNat = profile.val) :
    ChangesLine h (.setLineProfile a) a.site a.line [] lineProfileReport (profileCheck profile)
      fun t => (t.moveProfile profile).bumpVersion where
  carried u := by
    have hlt : a.profile.toNat < 32 := hp ▸ profile.isLt
    obtain rfl : (⟨a.profile.toNat, hlt⟩ : Fin 32) = profile := Fin.ext hp
    refine (dif_pos hlt).trans (congrArg (onLine u h a.site a.line false true [] _) ?_)
    funext t
    unfold checkedBody profileCheck
    split
    · rfl
    · split <;> rfl
  presented _ := portRefuses_namedKey rfl _
  report_restart _ _ _ := rfl
  check_restart _ _ _ := rfl
  change_restart g k t := congrArg Touch.bumpVersion (restart_moveProfile g k t profile)

/-- Settles O21: the two checks on the profile named, then the use moved to it. -/
theorem setLineProfileMovesTheUse : Obligations.SetLineProfileMovesTheUse := by
  intro s h a r profile hf hk hp hl hv w x
  have hc := setLineProfile_changes h hp
  refine ⟨fun hkind => ?_, fun hkind => ?_⟩
  · intro u
    exact hc.served_accepted (y := { x with profile := profile, version := x.version + 1 })
      (v := u) hf hk hl hv (profileCheck_accepts hkind)
      (congrArg Touch.bumpVersion (moveProfile_eq w profile)) rfl
  · exact hc.served_refused hf hk hl hv (profileCheck_refuses hkind)

end Sys2Proof.Machine
end

section
/-! CREATE_LINE: its checks as the table of R19, and the record, slot, chain and counts it makes. -/

namespace Sys2Proof.Machine

open Sys2Proof

/-! ## The lot named (R19, checks 6 to 8) -/

/-- The lot of a new line: none for code 0, else the one its code finds. -/
def chosenLot (u : RecordUnit) (code : Word) : Option (Fin 64) :=
  if code = 0 then none else u.findLot code

/-- The rows of R19 on the lot named. -/
def createLotRows (u : RecordUnit) (kind : ProcessKind) (code : Word) : List (Bool × Status) :=
  let entry := u.findLot code
  [(decide (code = 0) || entry.isSome, .unknownLot),
   (decide (code = 0) || entry.any fun i => decide (u.lots[i].state ≠ .withdrawn), .lotWithdrawn),
   (decide (code = 0) || entry.any fun i => decide (u.lots[i].kind = some kind), .wrongKind)]

theorem createLot_eq (u : RecordUnit) (kind : ProcessKind) (code : Word) :
    createLot u kind code =
      (firstFailure (createLotRows u kind code)).elim (.ok (chosenLot u code)) .error := by
  unfold createLot chosenLot createLotRows
  by_cases hcode : code = 0
  · simp [hcode, firstFailure]
  · rw [if_neg hcode, if_neg hcode, decide_eq_false hcode]
    cases hfind : u.findLot code with
    | none => rfl
    | some i =>
      by_cases hstate : u.lots[i].state = .withdrawn
      · simp_all [firstFailure]
      · by_cases hkind : u.lots[i].kind = some kind <;> simp_all [firstFailure]

/-! ## The table of R19 -/

/-- What CREATE_LINE leaves and answers once every check has passed. -/
def createdLine (u : RecordUnit) (a : CreateArgs) (region : Fin 64) (kind : ProcessKind)
    (profile : Fin 32) : Carried :=
  ⟨createRecord { u with ringHead := (u.ringHead + 1) % 4096 }
      (newRecord (u.ringAt u.ringHead) a.site.toNat a.line.toNat region kind profile u.businessDay
        (chosenLot u a.lot)), false, ⟨.accepted, u.ringAt u.ringHead, 0, []⟩⟩

/-- The fields of CREATE_LINE that R19 checks first. -/
def CreateInRange (a : CreateArgs) : Prop :=
  1 ≤ a.site.toNat ∧ a.site.toNat ≤ 1048575 ∧ a.line.toNat ≤ 7 ∧ a.region.toNat ≤ 63 ∧
    (kindOfCode a.kind.toNat).isSome ∧ a.profile.toNat ≤ 31

theorem carryCreateLine_outOfRange {u : RecordUnit} {a : CreateArgs} (h : ¬CreateInRange a) :
    carryCreateLine u a = answer u (.plain .badParameter []) := by
  unfold carryCreateLine
  dsimp only
  split
  · rfl
  next hkey =>
  split
  case isFalse => rfl
  next hregion =>
  split
  · rfl
  next kind hkind =>
  split
  case isFalse => rfl
  next hprofile =>
  have hk : KeyInRange a.site a.line := not_not.1 fun hk => hkey (keyOutOfRange_eq_true hk)
  exact absurd ⟨hk.1, hk.2.1, hk.2.2, by omega, by rw [hkind]; rfl, by omega⟩ h

theorem firstFailure_createTable_outOfRange {u : RecordUnit} {a : CreateArgs}
    (h : ¬CreateInRange a) : firstFailure (createTable u a) = some .badParameter := by
  unfold CreateInRange at h
  unfold createTable
  dsimp only
  rw [firstFailure_cons, decide_eq_false h]
  rfl

section InRange

variable {u : RecordUnit} {a : CreateArgs} {region : Fin 64} {kind : ProcessKind}
  {profile : Fin 32} (hk : KeyInRange a.site a.line) (hr : a.region.toNat = region.val)
  (hkind : kindOfCode a.kind.toNat = some kind) (hp : a.profile.toNat = profile.val)

include hk hr hkind hp

/-- With every field in range the rest of the table decides. -/
theorem firstFailure_createTable :
    firstFailure (createTable u a) =
      firstFailure
        (((u.lookup a.site.toNat a.line.toNat).isNone, .exists) ::
          (decide (u.ringHead ≠ u.ringTail), .tableFull) ::
          (u.profiles[profile].kind.isSome, .noProfile) ::
          (decide (u.profiles[profile].kind = some kind), .wrongKind) ::
          createLotRows u kind a.lot) := by
  obtain ⟨hlow, hhigh, hline⟩ := hk
  have hrange : CreateInRange a :=
    ⟨hlow, hhigh, hline, by omega, by rw [hkind]; rfl, by omega⟩
  have hentry : u.profiles.getD a.profile.toNat Profile.unset = u.profiles[profile] := by
    rw [hp]
    simp [Vector.getD]
  unfold CreateInRange at hrange
  unfold createTable
  dsimp only
  rw [firstFailure_cons, decide_eq_true hrange, if_pos rfl, hentry, hkind]
  rfl

/-- CREATE_LINE with every field in range goes by the rest of the table. -/
theorem carryCreateLine_inRange :
    carryCreateLine u a =
      (firstFailure (createTable u a)).elim (createdLine u a region kind profile)
        fun status => answer u (.plain status []) := by
  have hregion : a.region.toNat < 64 := hr ▸ region.isLt
  have hprofile : a.profile.toNat < 32 := hp ▸ profile.isLt
  rw [firstFailure_createTable hk hr hkind hp]
  obtain rfl : (⟨a.region.toNat, hregion⟩ : Fin 64) = region := Fin.ext hr
  obtain rfl : (⟨a.profile.toNat, hprofile⟩ : Fin 32) = profile := Fin.ext hp
  unfold carryCreateLine
  simp only [keyOutOfRange_eq_false hk, hkind, dif_pos hregion, dif_pos hprofile, createLot_eq,
    firstFailure_cons, RecordUnit.takeSlot]
  cases u.lookup a.site.toNat a.line.toNat with
  | some r => rfl
  | none =>
    by_cases hring : u.ringHead = u.ringTail
    · simp [hring]
    · cases hentry : u.profiles[(⟨a.profile.toNat, hprofile⟩ : Fin 32)].kind with
      | none => simp [hring]
      | some held =>
        by_cases hheld : held = kind
        · cases firstFailure (createLotRows u kind a.lot) <;> simp [hring, hheld, createdLine]
        · simp [hring, hheld]

end InRange

theorem createTable_start (u : RecordUnit) (g : Grant) (k : Arbiter) (a : CreateArgs) :
    createTable (u.start g k) a = createTable u a := by
  unfold createTable
  rw [lookup_start]
  rfl

/-- The first row that fails is the answer, and nothing is changed (R19). -/
theorem carryCreateLine_refused {u : RecordUnit} {a : CreateArgs} {status : Status}
    (h : firstFailure (createTable u a) = some status) :
    carryCreateLine u a = answer u (.plain status []) := by
  by_cases hrange : CreateInRange a
  · obtain ⟨hlow, hhigh, hline, hregion, hkind, hprofile⟩ := hrange
    obtain ⟨kind, hkind⟩ := Option.isSome_iff_exists.1 hkind
    rw [carryCreateLine_inRange (region := ⟨a.region.toNat, by omega⟩)
      (profile := ⟨a.profile.toNat, by omega⟩) ⟨hlow, hhigh, hline⟩ rfl hkind rfl, h]
    rfl
  · rw [firstFailure_createTable_outOfRange hrange] at h
    rw [carryCreateLine_outOfRange hrange, Option.some.inj h]

/-! ## The record made (R11, R20) -/

/-- The Record Unit with a record entered: its counts, its chain and the table. -/
theorem createRecord_eq (u : RecordUnit) (r : LineRecord) :
    createRecord u r =
      { u with
        records := insertRecord r u.records
        index := u.index.set (bucketOf r.site r.lineNo).val
          (r.slot :: u.index[bucketOf r.site r.lineNo]) (bucketOf r.site r.lineNo).isLt
        profiles := (addProfileUse u r.profile).profiles
        regions := (addLive u r.region).regions
        lots := match r.lot with | none => u.lots | some i => (addCurrentUser u i).lots } := by
  unfold createRecord
  cases r.lot <;> rfl

/-- The lot named passes its rows: none, or an opened one of the line's kind. -/
theorem createLotRows_pass {u : RecordUnit} {kind : ProcessKind} {code : Word}
    {lot : Option (Fin 64)}
    (h : lot = none ∧ code = 0 ∨ ∃ i, lot = some i ∧ code ≠ 0 ∧ u.findLot code = some i ∧
      u.lots[i].state = .opened ∧ u.lots[i].kind = some kind) :
    firstFailure (createLotRows u kind code) = none ∧ chosenLot u code = lot := by
  unfold createLotRows chosenLot
  obtain ⟨rfl, rfl⟩ | ⟨i, rfl, hcode, hfind, hstate, hkind⟩ := h
  · exact ⟨rfl, rfl⟩
  · rw [if_neg hcode, hfind]
    exact ⟨by simp_all [firstFailure], rfl⟩

/-- Settles O16: the first check that fails answers, and when none does the record is entered in the
slot at the ring's head. -/
theorem createLineMakesTheRecord : Obligations.CreateLineMakesTheRecord := by
  refine ⟨fun s h a status hf hfails => ?_,
    fun s h a region kind profile lot hf hk hr hkind hp hnew hring hprofile hlot => ?_⟩
  · refine served_ungated (.createLine a) hf rfl nofun fun g k => ?_
    exact carryCreateLine_refused ((congrArg firstFailure (createTable_start ..)).trans hfails)
  · intro u slot day bucket r
    obtain ⟨hpass, hchosen⟩ := createLotRows_pass hlot
    have htable : firstFailure (createTable u a) = none := by
      rw [firstFailure_createTable hk hr hkind hp, hnew, decide_eq_true hring, hprofile]
      simpa [firstFailure] using hpass
    refine served_ungated (.createLine a) hf rfl nofun fun g k => ?_
    show carryCreateLine (u.start g k) a = _
    rw [carryCreateLine_inRange hk hr hkind hp, createTable_start, htable, Option.elim_none,
      createdLine, createRecord_eq]
    rw [show chosenLot (u.start g k) a.lot = lot from hchosen]
    cases lot <;> rfl

end Sys2Proof.Machine
end
